-- ==== Sys2Proof/Word.lean ====
section
/-! DEFINITION. The byte, the one data width of the machine (spec/00_scope.md R14, R17), and the packed selector. -/

namespace Sys2Proof

/-- A register, a memory cell, an operand byte, `pc` or `active`: an unsigned integer in 0..255 (R17). -/
abbrev Byte := BitVec 8

/-- The packed first operand of format P, `sel = op0[2:0]` (R65, R66). -/
abbrev Sel := BitVec 3

end Sys2Proof
end

