-- ==== Sys2Proof/Config.lean ====
section
/-! DEFINITION. The four named parameters of spec/00_scope.md R15 and the
free values: what the spec leaves open after a fault (spec/93_implementation_defined.md I3, I4). -/

namespace Sys2Proof

/-- The arithmetic and logic operations of the alu (R12, R113). -/
inductive AluOp where
  | add | sub | or | xor | nor | and
  deriving DecidableEq, Repr

/-- The relations of the comparison instructions (R12, R129). -/
inductive CmpRel where
  | grt | lst | greqt | lseqt | eql | neql
  deriving DecidableEq, Repr

/-- The 13 (mnemonic, mode) pairs that share the opcode bytes 0x68..0x74 (R70, C1). -/
inductive AluForm where
  | addRv | addRr | subRv | subRr | subVr | orRv | orRr | xorRv | xorRr | norRv | norRr | andRv | andRr
  deriving DecidableEq, Repr

/-- The 12 (mnemonic, mode) pairs that share the opcode bytes 0x75..0x80 (R70, C1). -/
inductive CmpForm where
  | grtRv | grtRr | lstRv | lstRr | greqtRv | greqtRr | lseqtRv | lseqtRr | eqlRv | eqlRr | neqlRv | neqlRr
  deriving DecidableEq, Repr

/-- `PC_EDGE_POLICY`: what a fetch at `pc > 253` and a fall-through past 255 do (R15, D3). -/
inductive PcEdgePolicy where
  | fault | wrap
  deriving DecidableEq, Repr

/-- `FAULT_PRIORITY`: which fault a step reports when several apply (R15, D5). -/
inductive FaultPriority where
  | order | any
  deriving DecidableEq, Repr

/-- `SELECTOR_MAX`: the largest disc selector the machine accepts, 8 or 7 (R15, D14). -/
inductive SelectorMax where
  | eight | seven
  deriving DecidableEq, Repr

/-- The named parameters of R15, which "a model may take as an argument". `aluMap` and `cmpMap` together are
`ALU_CMP_OPCODE_MAP`: entry `k` is the pair whose opcode byte is 0x68 + k, 0x75 + k. DESIGN CHOICE (log entry 3):
the argument is held in the state; no instruction reads it as an operand or writes it. -/
structure Params where
  aluMap : Vector AluForm 13
  cmpMap : Vector CmpForm 12
  pcEdge : PcEdgePolicy
  faultPriority : FaultPriority
  selectorMax : SelectorMax
  deriving DecidableEq, Repr

/-- What the free values of a fault may depend on: the whole state at the start of the faulting step, the opcode
byte it fetched, and the state's counter of free values. The more they depend on, the less can be proved of them. -/
structure FaultSite where
  freeIndex : Nat
  banks : List Host.Cell
  x : Vector Byte 8
  pc : Byte
  active : Byte
  op0 : Option Byte

/-- FREE VALUE (I3, R90): the byte of cell address `addr` after a fault. Nothing constrains it. -/
opaque Config.bankByteAfterFault (site : FaultSite) (addr : Nat) : Byte

/-- FREE VALUE (I3, R90): register `i` after a fault. Nothing constrains it. -/
opaque Config.xAfterFault (site : FaultSite) (i : Fin 8) : Byte

/-- FREE VALUE (I3, R90): `pc` after a fault. Nothing constrains it. -/
opaque Config.pcAfterFault (site : FaultSite) : Byte

/-- FREE VALUE (I3, R90): `active` after a fault. Nothing constrains it. -/
opaque Config.activeAfterFault (site : FaultSite) : Byte

/-- FREE VALUE (I4): which of the faults that apply is reported under `FAULT_PRIORITY = any`. -/
opaque Config.faultChoice (site : FaultSite) : Nat

end Sys2Proof
end

