-- ==== Sys2Proof/Syntax.lean ====
section
/-! DEFINITION. The instructions: one constructor per row of spec/opcode_table.json. The fields are the row's fields, as wide as
the row has them, so every term has an encoding and no encoding is left out (spec/30_encoding.md R64, R65, R73). -/

namespace Sys2Proof

/-- An instruction: mnemonic and mode as the constructor, the operand fields as the row of the opcode table has them.
`d` is a literal disc selector, `rd` the register that holds one, `idx` a literal cell index, `ri` the register that
holds one, `v` a literal value, `r` and `r2` registers, `c` the condition register, `t` the target (a literal offset or
the register that holds it), `u` the low bits of an unassigned opcode (R67, R68). -/
inductive Instr where
  /-- END: `00000000xxxxxxxxxxxxxxxx` (R157). -/
  | endZ (op1 : Byte) (op2 : Byte)
  /-- END unassigned 0x01: `00000001xxxxxxxxxxxxxxxx` (R158). -/
  | unassigned01 (op1 : Byte) (op2 : Byte)
  /-- END unassigned 0x02..0x03: `0000001uxxxxxxxxxxxxxxxx` (R158). -/
  | unassigned02To03 (u : BitVec 1) (op1 : Byte) (op2 : Byte)
  /-- END unassigned 0x04..0x07: `000001uuxxxxxxxxxxxxxxxx` (R158). -/
  | unassigned04To07 (u : BitVec 2) (op1 : Byte) (op2 : Byte)
  /-- SAVE DVV: `00001dddiiiiiiiivvvvvvvv` (R98). -/
  | saveDvv (d : Sel) (idx : Byte) (v : Byte)
  /-- SAVE DVR: `00010dddiiiiiiiirrrrrrrr` (R99). -/
  | saveDvr (d : Sel) (idx : Byte) (r : Byte)
  /-- SAVE DRV: `00011dddnnnnnnnnvvvvvvvv` (R100). -/
  | saveDrv (d : Sel) (ri : Byte) (v : Byte)
  /-- SAVE DRR: `00100dddnnnnnnnnrrrrrrrr` (R101). -/
  | saveDrr (d : Sel) (ri : Byte) (r : Byte)
  /-- SAVE RVV: `00101bbbiiiiiiiivvvvvvvv` (R102). -/
  | saveRvv (rd : Sel) (idx : Byte) (v : Byte)
  /-- SAVE RVR: `00110bbbiiiiiiiirrrrrrrr` (R103). -/
  | saveRvr (rd : Sel) (idx : Byte) (r : Byte)
  /-- SAVE RRV: `00111bbbnnnnnnnnvvvvvvvv` (R104). -/
  | saveRrv (rd : Sel) (ri : Byte) (v : Byte)
  /-- SAVE RRR: `01000bbbnnnnnnnnrrrrrrrr` (R105). -/
  | saveRrr (rd : Sel) (ri : Byte) (r : Byte)
  /-- LOAD DVR: `01001dddiiiiiiiirrrrrrrr` (R106). -/
  | loadDvr (d : Sel) (idx : Byte) (r : Byte)
  /-- LOAD DRR: `01010dddnnnnnnnnrrrrrrrr` (R107). -/
  | loadDrr (d : Sel) (ri : Byte) (r : Byte)
  /-- LOAD RVR: `01011bbbiiiiiiiirrrrrrrr` (R108). -/
  | loadRvr (rd : Sel) (idx : Byte) (r : Byte)
  /-- LOAD RRR: `01100bbbnnnnnnnnrrrrrrrr` (R109). -/
  | loadRrr (rd : Sel) (ri : Byte) (r : Byte)
  /-- ADD RV: `01101000rrrrrrrrvvvvvvvv` (R115). -/
  | addRv (r : Byte) (v : Byte)
  /-- ADD RR: `01101001rrrrrrrrssssssss` (R116). -/
  | addRr (r : Byte) (r2 : Byte)
  /-- SUB RV: `01101010rrrrrrrrvvvvvvvv` (R117). -/
  | subRv (r : Byte) (v : Byte)
  /-- SUB RR: `01101011rrrrrrrrssssssss` (R118). -/
  | subRr (r : Byte) (r2 : Byte)
  /-- SUB VR: `01101100vvvvvvvvrrrrrrrr` (R119). -/
  | subVr (v : Byte) (r : Byte)
  /-- OR RV: `01101101rrrrrrrrvvvvvvvv` (R120). -/
  | orRv (r : Byte) (v : Byte)
  /-- OR RR: `01101110rrrrrrrrssssssss` (R121). -/
  | orRr (r : Byte) (r2 : Byte)
  /-- XOR RV: `01101111rrrrrrrrvvvvvvvv` (R122). -/
  | xorRv (r : Byte) (v : Byte)
  /-- XOR RR: `01110000rrrrrrrrssssssss` (R123). -/
  | xorRr (r : Byte) (r2 : Byte)
  /-- NOR RV: `01110001rrrrrrrrvvvvvvvv` (R124). -/
  | norRv (r : Byte) (v : Byte)
  /-- NOR RR: `01110010rrrrrrrrssssssss` (R125). -/
  | norRr (r : Byte) (r2 : Byte)
  /-- AND RV: `01110011rrrrrrrrvvvvvvvv` (R126). -/
  | andRv (r : Byte) (v : Byte)
  /-- AND RR: `01110100rrrrrrrrssssssss` (R127). -/
  | andRr (r : Byte) (r2 : Byte)
  /-- GRT RV: `01110101rrrrrrrrvvvvvvvv` (R130). -/
  | grtRv (r : Byte) (v : Byte)
  /-- GRT RR: `01110110rrrrrrrrssssssss` (R131). -/
  | grtRr (r : Byte) (r2 : Byte)
  /-- LST RV: `01110111rrrrrrrrvvvvvvvv` (R132). -/
  | lstRv (r : Byte) (v : Byte)
  /-- LST RR: `01111000rrrrrrrrssssssss` (R133). -/
  | lstRr (r : Byte) (r2 : Byte)
  /-- GREQT RV: `01111001rrrrrrrrvvvvvvvv` (R134). -/
  | greqtRv (r : Byte) (v : Byte)
  /-- GREQT RR: `01111010rrrrrrrrssssssss` (R135). -/
  | greqtRr (r : Byte) (r2 : Byte)
  /-- LSEQT RV: `01111011rrrrrrrrvvvvvvvv` (R136). -/
  | lseqtRv (r : Byte) (v : Byte)
  /-- LSEQT RR: `01111100rrrrrrrrssssssss` (R137). -/
  | lseqtRr (r : Byte) (r2 : Byte)
  /-- EQL RV: `01111101rrrrrrrrvvvvvvvv` (R138). -/
  | eqlRv (r : Byte) (v : Byte)
  /-- EQL RR: `01111110rrrrrrrrssssssss` (R139). -/
  | eqlRr (r : Byte) (r2 : Byte)
  /-- NEQL RV: `01111111rrrrrrrrvvvvvvvv` (R140). -/
  | neqlRv (r : Byte) (v : Byte)
  /-- NEQL RR: `10000000rrrrrrrrssssssss` (R141). -/
  | neqlRr (r : Byte) (r2 : Byte)
  /-- SET RV: `10000001rrrrrrrrvvvvvvvv` (R110). -/
  | setRv (r : Byte) (v : Byte)
  /-- SET RR: `10000010rrrrrrrrssssssss` (R111). -/
  | setRr (r : Byte) (r2 : Byte)
  /-- JMP DV: `10000011ddddddddtttttttt` (R153). -/
  | jmpDv (d : Byte) (t : Byte)
  /-- JMP DR: `10000100ddddddddtttttttt` (R154). -/
  | jmpDr (d : Byte) (t : Byte)
  /-- JMP RV: `10000101bbbbbbbbtttttttt` (R155). -/
  | jmpRv (rd : Byte) (t : Byte)
  /-- JMP RR: `10000110bbbbbbbbtttttttt` (R156). -/
  | jmpRr (rd : Byte) (t : Byte)
  /-- END unassigned 0x87: `10000111xxxxxxxxxxxxxxxx` (R158). -/
  | unassigned87 (op1 : Byte) (op2 : Byte)
  /-- JZ DRV: `10001dddcccccccctttttttt` (R145). -/
  | jzDrv (d : Sel) (c : Byte) (t : Byte)
  /-- JZ DRR: `10010dddcccccccctttttttt` (R146). -/
  | jzDrr (d : Sel) (c : Byte) (t : Byte)
  /-- JZ RRV: `10011bbbcccccccctttttttt` (R147). -/
  | jzRrv (rd : Sel) (c : Byte) (t : Byte)
  /-- JZ RRR: `10100bbbcccccccctttttttt` (R148). -/
  | jzRrr (rd : Sel) (c : Byte) (t : Byte)
  /-- JNZ DRV: `10101dddcccccccctttttttt` (R149). -/
  | jnzDrv (d : Sel) (c : Byte) (t : Byte)
  /-- JNZ DRR: `10110dddcccccccctttttttt` (R150). -/
  | jnzDrr (d : Sel) (c : Byte) (t : Byte)
  /-- JNZ RRV: `10111bbbcccccccctttttttt` (R151). -/
  | jnzRrv (rd : Sel) (c : Byte) (t : Byte)
  /-- JNZ RRR: `11000bbbcccccccctttttttt` (R152). -/
  | jnzRrr (rd : Sel) (c : Byte) (t : Byte)
  /-- END unassigned 0xC8..0xCF: `11001uuuxxxxxxxxxxxxxxxx` (R158). -/
  | unassignedC8ToCF (u : BitVec 3) (op1 : Byte) (op2 : Byte)
  /-- END unassigned 0xD0..0xDF: `1101uuuuxxxxxxxxxxxxxxxx` (R158). -/
  | unassignedD0ToDF (u : BitVec 4) (op1 : Byte) (op2 : Byte)
  /-- END unassigned 0xE0..0xFF: `111uuuuuxxxxxxxxxxxxxxxx` (R158). -/
  | unassignedE0ToFF (u : BitVec 5) (op1 : Byte) (op2 : Byte)
  deriving DecidableEq, Repr

end Sys2Proof
end

