-- ==== Sys2Proof/WellFormed.lean ====
section
/-! DEFINITION. The static range check of spec/30_encoding.md R77: what the assembler accepts. It is no condition for an
instruction to run: the machine decodes and runs every word (R73), and an operand out of range faults when it executes. -/

namespace Sys2Proof

/-- The operand bytes that name a register, in operand order (R25, R68). A register named by the packed field is left
out: 0..7 is always a register (R26). -/
def Instr.registerOperands : Instr → List Byte
  | .saveDvv _ _ _ | .saveRvv _ _ _ => []
  | .saveDvr _ _ r | .saveRvr _ _ r | .loadDvr _ _ r | .loadRvr _ _ r => [r]
  | .saveDrv _ ri _ | .saveRrv _ ri _ => [ri]
  | .saveDrr _ ri r | .saveRrr _ ri r | .loadDrr _ ri r | .loadRrr _ ri r => [ri, r]
  | .setRv r _ | .addRv r _ | .subRv r _ | .subVr _ r | .orRv r _ | .xorRv r _ | .norRv r _ | .andRv r _ => [r]
  | .grtRv r _ | .lstRv r _ | .greqtRv r _ | .lseqtRv r _ | .eqlRv r _ | .neqlRv r _ => [r]
  | .setRr r r2 | .addRr r r2 | .subRr r r2 | .orRr r r2 | .xorRr r r2 | .norRr r r2 | .andRr r r2 => [r, r2]
  | .grtRr r r2 | .lstRr r r2 | .greqtRr r r2 | .lseqtRr r r2 | .eqlRr r r2 | .neqlRr r r2 => [r, r2]
  | .jzDrv _ c _ | .jzRrv _ c _ | .jnzDrv _ c _ | .jnzRrv _ c _ => [c]
  | .jzDrr _ c t | .jzRrr _ c t | .jnzDrr _ c t | .jnzRrr _ c t => [c, t]
  | .jmpDv _ _ => []
  | .jmpDr _ t => [t]
  | .jmpRv rd _ => [rd]
  | .jmpRr rd t => [rd, t]
  | .endZ _ _ | .unassigned01 _ _ | .unassigned02To03 _ _ _ | .unassigned04To07 _ _ _ | .unassigned87 _ _ => []
  | .unassignedC8ToCF _ _ _ | .unassignedD0ToDF _ _ _ | .unassignedE0ToFF _ _ _ => []

/-- The operand bytes that are a literal disc selector: only JMP DV and DR have one, every other literal selector is
packed in 3 bits and below 8 by its width (R47, R153, R154). -/
def Instr.selectorOperands : Instr → List Byte
  | .jmpDv d _ | .jmpDr d _ => [d]
  | .saveDvv _ _ _ | .saveDvr _ _ _ | .saveDrv _ _ _ | .saveDrr _ _ _ => []
  | .saveRvv _ _ _ | .saveRvr _ _ _ | .saveRrv _ _ _ | .saveRrr _ _ _ => []
  | .loadDvr _ _ _ | .loadDrr _ _ _ | .loadRvr _ _ _ | .loadRrr _ _ _ => []
  | .setRv _ _ | .setRr _ _ | .addRv _ _ | .addRr _ _ | .subRv _ _ | .subRr _ _ | .subVr _ _ => []
  | .orRv _ _ | .orRr _ _ | .xorRv _ _ | .xorRr _ _ | .norRv _ _ | .norRr _ _ | .andRv _ _ | .andRr _ _ => []
  | .grtRv _ _ | .grtRr _ _ | .lstRv _ _ | .lstRr _ _ | .greqtRv _ _ | .greqtRr _ _ => []
  | .lseqtRv _ _ | .lseqtRr _ _ | .eqlRv _ _ | .eqlRr _ _ | .neqlRv _ _ | .neqlRr _ _ => []
  | .jzDrv _ _ _ | .jzDrr _ _ _ | .jzRrv _ _ _ | .jzRrr _ _ _ => []
  | .jnzDrv _ _ _ | .jnzDrr _ _ _ | .jnzRrv _ _ _ | .jnzRrr _ _ _ => []
  | .jmpRv _ _ | .jmpRr _ _ => []
  | .endZ _ _ | .unassigned01 _ _ | .unassigned02To03 _ _ _ | .unassigned04To07 _ _ _ | .unassigned87 _ _ => []
  | .unassignedC8ToCF _ _ _ | .unassignedD0ToDF _ _ _ | .unassignedE0ToFF _ _ _ => []

/-- Check 1 of R77: every register reference is below `REGISTERS` (8). -/
def Instr.registersInRange (i : Instr) : Bool := i.registerOperands.all (fun r => decide (r.toNat < 8))

/-- Check 2 of R77: every disc selector literal is below `DISCS` (8). -/
def Instr.selectorsInRange (i : Instr) : Bool := i.selectorOperands.all (fun d => decide (d.toNat < 8))

/-- What the assembler accepts (R77): register references and disc literals in 0..7. -/
def Instr.WellFormed (i : Instr) : Bool := i.registersInRange && i.selectorsInRange

end Sys2Proof
end

