-- ==== Sys2Proof/Decode.lean ====
section
/-! DEFINITION. The default values of the parameters of spec/00_scope.md R15, the instruction_decoder
(spec/30_encoding.md R69 to R72), total on all words, and the encoder written from the same tables (R65, R66, R78).
Nothing is rejected: the ISA has no illegal encoding (R73). -/

namespace Sys2Proof

/-! ## The parameters' values (R15) -/

/-- The ALU pairs in the source's listing order: the default assignment to 0x68..0x74 (R70, D2). -/
def AluForm.listing : Vector AluForm 13 :=
  #v[.addRv, .addRr, .subRv, .subRr, .subVr, .orRv, .orRr, .xorRv, .xorRr, .norRv, .norRr, .andRv, .andRr]

/-- The compare pairs in the source's listing order: the default assignment to 0x75..0x80 (R70, D2). -/
def CmpForm.listing : Vector CmpForm 12 :=
  #v[.grtRv, .grtRr, .lstRv, .lstRr, .greqtRv, .greqtRr, .lseqtRv, .lseqtRr, .eqlRv, .eqlRr, .neqlRv, .neqlRr]

/-- The value of `SELECTOR_MAX`. -/
def SelectorMax.toNat : SelectorMax → Nat
  | .eight => 8
  | .seven => 7

/-- The default of every parameter (R15). -/
def Params.default : Params :=
  { aluMap := AluForm.listing
    cmpMap := CmpForm.listing
    pcEdge := .fault
    faultPriority := .order
    selectorMax := .eight }

/-- `ALU_CMP_OPCODE_MAP` is a bijection (D2): every pair has a byte and no pair has two. -/
def Params.wf (p : Params) : Bool :=
  AluForm.listing.toList.all (fun f => p.aluMap.toList.contains f)
    && decide p.aluMap.toList.Nodup
    && CmpForm.listing.toList.all (fun f => p.cmpMap.toList.contains f)
    && decide p.cmpMap.toList.Nodup

/-! ## Fields -/

/-- `op0[hi:lo]` as a field of `n` bits from bit `lo` (R16). -/
def bits (op0 : Byte) (lo n : Nat) : BitVec n := op0.extractLsb' lo n

/-- `op0 = base + s` of format P (R66). -/
def packed (base : Byte) (s : Sel) : Byte := base + s.setWidth 8

/-- The ALU instruction of a pair with operand bytes `op1` and `op2` (R68, R70). -/
def aluInstr (f : AluForm) (op1 op2 : Byte) : Instr :=
  match f with
  | .addRv => .addRv op1 op2
  | .addRr => .addRr op1 op2
  | .subRv => .subRv op1 op2
  | .subRr => .subRr op1 op2
  | .subVr => .subVr op1 op2
  | .orRv => .orRv op1 op2
  | .orRr => .orRr op1 op2
  | .xorRv => .xorRv op1 op2
  | .xorRr => .xorRr op1 op2
  | .norRv => .norRv op1 op2
  | .norRr => .norRr op1 op2
  | .andRv => .andRv op1 op2
  | .andRr => .andRr op1 op2

/-- The comparison instruction of a pair with operand bytes `op1` and `op2` (R68, R70). -/
def cmpInstr (f : CmpForm) (op1 op2 : Byte) : Instr :=
  match f with
  | .grtRv => .grtRv op1 op2
  | .grtRr => .grtRr op1 op2
  | .lstRv => .lstRv op1 op2
  | .lstRr => .lstRr op1 op2
  | .greqtRv => .greqtRv op1 op2
  | .greqtRr => .greqtRr op1 op2
  | .lseqtRv => .lseqtRv op1 op2
  | .lseqtRr => .lseqtRr op1 op2
  | .eqlRv => .eqlRv op1 op2
  | .eqlRr => .eqlRr op1 op2
  | .neqlRv => .neqlRv op1 op2
  | .neqlRr => .neqlRr op1 op2

/-- `op0` in 0x00..0x07: END, or an unassigned byte by the opcode table's rows (R69, R72). -/
def decodeLow (op0 op1 op2 : Byte) : Instr :=
  match (bits op0 0 3).toNat with
  | 0 => .endZ op1 op2
  | 1 => .unassigned01 op1 op2
  | 2 | 3 => .unassigned02To03 (bits op0 0 1) op1 op2
  | _ => .unassigned04To07 (bits op0 0 2) op1 op2

/-- `op0` in 0x68..0x87: the flat instructions, and the unassigned 0x87 (R69, R70, R72). -/
def decodeFlat (p : Params) (op0 op1 op2 : Byte) : Instr :=
  if ha : op0.toNat - 0x68 < 13 then aluInstr (p.aluMap[op0.toNat - 0x68]) op1 op2
  else if hc : op0.toNat - 0x75 < 12 then cmpInstr (p.cmpMap[op0.toNat - 0x75]) op1 op2
  else
    match op0.toNat with
    | 0x81 => .setRv op1 op2
    | 0x82 => .setRr op1 op2
    | 0x83 => .jmpDv op1 op2
    | 0x84 => .jmpDr op1 op2
    | 0x85 => .jmpRv op1 op2
    | 0x86 => .jmpRr op1 op2
    | _ => .unassigned87 op1 op2

/-- The decoder (R71), by `w[23:19] = op0[7:3]` as the formats of R65 lay it out: a packed family's `base[7:3]`
names the instruction and `op0[2:0]` is its selector; 13 to 16 are the flat bytes; 0 and 25 to 31 are END and the
unassigned bytes. Only `op0` chooses the instruction; `op1` and `op2` pass through untouched (R84). -/
def decodeWord (p : Params) (op0 op1 op2 : Byte) : Instr :=
  let sel : Sel := bits op0 0 3
  match (bits op0 3 5).toNat with
  | 0 => decodeLow op0 op1 op2
  | 1 => .saveDvv sel op1 op2
  | 2 => .saveDvr sel op1 op2
  | 3 => .saveDrv sel op1 op2
  | 4 => .saveDrr sel op1 op2
  | 5 => .saveRvv sel op1 op2
  | 6 => .saveRvr sel op1 op2
  | 7 => .saveRrv sel op1 op2
  | 8 => .saveRrr sel op1 op2
  | 9 => .loadDvr sel op1 op2
  | 10 => .loadDrr sel op1 op2
  | 11 => .loadRvr sel op1 op2
  | 12 => .loadRrr sel op1 op2
  | 13 | 14 | 15 | 16 => decodeFlat p op0 op1 op2
  | 17 => .jzDrv sel op1 op2
  | 18 => .jzDrr sel op1 op2
  | 19 => .jzRrv sel op1 op2
  | 20 => .jzRrr sel op1 op2
  | 21 => .jnzDrv sel op1 op2
  | 22 => .jnzDrr sel op1 op2
  | 23 => .jnzRrv sel op1 op2
  | 24 => .jnzRrr sel op1 op2
  | 25 => .unassignedC8ToCF (bits op0 0 3) op1 op2
  | 26 | 27 => .unassignedD0ToDF (bits op0 0 4) op1 op2
  | _ => .unassignedE0ToFF (bits op0 0 5) op1 op2

/-- The opcode byte of an ALU pair: its place in 0x68..0x74 (R70). -/
def aluByte (p : Params) (f : AluForm) : Byte := BitVec.ofNat 8 (0x68 + p.aluMap.toList.idxOf f)

/-- The opcode byte of a compare pair: its place in 0x75..0x80 (R70). -/
def cmpByte (p : Params) (f : CmpForm) : Byte := BitVec.ofNat 8 (0x75 + p.cmpMap.toList.idxOf f)

/-- The opcode byte of an instruction (R66, R69, R70, R72, R78). -/
def opcode (p : Params) : Instr → Byte
  | .endZ _ _ => 0x00
  | .unassigned01 _ _ => 0x01
  | .unassigned02To03 u _ _ => 0x02 + u.setWidth 8
  | .unassigned04To07 u _ _ => 0x04 + u.setWidth 8
  | .saveDvv d _ _ => packed 0x08 d
  | .saveDvr d _ _ => packed 0x10 d
  | .saveDrv d _ _ => packed 0x18 d
  | .saveDrr d _ _ => packed 0x20 d
  | .saveRvv rd _ _ => packed 0x28 rd
  | .saveRvr rd _ _ => packed 0x30 rd
  | .saveRrv rd _ _ => packed 0x38 rd
  | .saveRrr rd _ _ => packed 0x40 rd
  | .loadDvr d _ _ => packed 0x48 d
  | .loadDrr d _ _ => packed 0x50 d
  | .loadRvr rd _ _ => packed 0x58 rd
  | .loadRrr rd _ _ => packed 0x60 rd
  | .addRv _ _ => aluByte p .addRv
  | .addRr _ _ => aluByte p .addRr
  | .subRv _ _ => aluByte p .subRv
  | .subRr _ _ => aluByte p .subRr
  | .subVr _ _ => aluByte p .subVr
  | .orRv _ _ => aluByte p .orRv
  | .orRr _ _ => aluByte p .orRr
  | .xorRv _ _ => aluByte p .xorRv
  | .xorRr _ _ => aluByte p .xorRr
  | .norRv _ _ => aluByte p .norRv
  | .norRr _ _ => aluByte p .norRr
  | .andRv _ _ => aluByte p .andRv
  | .andRr _ _ => aluByte p .andRr
  | .grtRv _ _ => cmpByte p .grtRv
  | .grtRr _ _ => cmpByte p .grtRr
  | .lstRv _ _ => cmpByte p .lstRv
  | .lstRr _ _ => cmpByte p .lstRr
  | .greqtRv _ _ => cmpByte p .greqtRv
  | .greqtRr _ _ => cmpByte p .greqtRr
  | .lseqtRv _ _ => cmpByte p .lseqtRv
  | .lseqtRr _ _ => cmpByte p .lseqtRr
  | .eqlRv _ _ => cmpByte p .eqlRv
  | .eqlRr _ _ => cmpByte p .eqlRr
  | .neqlRv _ _ => cmpByte p .neqlRv
  | .neqlRr _ _ => cmpByte p .neqlRr
  | .setRv _ _ => 0x81
  | .setRr _ _ => 0x82
  | .jmpDv _ _ => 0x83
  | .jmpDr _ _ => 0x84
  | .jmpRv _ _ => 0x85
  | .jmpRr _ _ => 0x86
  | .unassigned87 _ _ => 0x87
  | .jzDrv d _ _ => packed 0x88 d
  | .jzDrr d _ _ => packed 0x90 d
  | .jzRrv rd _ _ => packed 0x98 rd
  | .jzRrr rd _ _ => packed 0xA0 rd
  | .jnzDrv d _ _ => packed 0xA8 d
  | .jnzDrr d _ _ => packed 0xB0 d
  | .jnzRrv rd _ _ => packed 0xB8 rd
  | .jnzRrr rd _ _ => packed 0xC0 rd
  | .unassignedC8ToCF u _ _ => 0xC8 + u.setWidth 8
  | .unassignedD0ToDF u _ _ => 0xD0 + u.setWidth 8
  | .unassignedE0ToFF u _ _ => 0xE0 + u.setWidth 8

/-- The operand bytes `op1` and `op2` of an instruction (R65, R78). -/
def operandBytes : Instr → Byte × Byte
  | .endZ op1 op2 => (op1, op2)
  | .unassigned01 op1 op2 => (op1, op2)
  | .unassigned02To03 _ op1 op2 => (op1, op2)
  | .unassigned04To07 _ op1 op2 => (op1, op2)
  | .saveDvv _ idx v => (idx, v)
  | .saveDvr _ idx r => (idx, r)
  | .saveDrv _ ri v => (ri, v)
  | .saveDrr _ ri r => (ri, r)
  | .saveRvv _ idx v => (idx, v)
  | .saveRvr _ idx r => (idx, r)
  | .saveRrv _ ri v => (ri, v)
  | .saveRrr _ ri r => (ri, r)
  | .loadDvr _ idx r => (idx, r)
  | .loadDrr _ ri r => (ri, r)
  | .loadRvr _ idx r => (idx, r)
  | .loadRrr _ ri r => (ri, r)
  | .addRv r v => (r, v)
  | .addRr r r2 => (r, r2)
  | .subRv r v => (r, v)
  | .subRr r r2 => (r, r2)
  | .subVr v r => (v, r)
  | .orRv r v => (r, v)
  | .orRr r r2 => (r, r2)
  | .xorRv r v => (r, v)
  | .xorRr r r2 => (r, r2)
  | .norRv r v => (r, v)
  | .norRr r r2 => (r, r2)
  | .andRv r v => (r, v)
  | .andRr r r2 => (r, r2)
  | .grtRv r v => (r, v)
  | .grtRr r r2 => (r, r2)
  | .lstRv r v => (r, v)
  | .lstRr r r2 => (r, r2)
  | .greqtRv r v => (r, v)
  | .greqtRr r r2 => (r, r2)
  | .lseqtRv r v => (r, v)
  | .lseqtRr r r2 => (r, r2)
  | .eqlRv r v => (r, v)
  | .eqlRr r r2 => (r, r2)
  | .neqlRv r v => (r, v)
  | .neqlRr r r2 => (r, r2)
  | .setRv r v => (r, v)
  | .setRr r r2 => (r, r2)
  | .jmpDv d t => (d, t)
  | .jmpDr d t => (d, t)
  | .jmpRv rd t => (rd, t)
  | .jmpRr rd t => (rd, t)
  | .unassigned87 op1 op2 => (op1, op2)
  | .jzDrv _ c t => (c, t)
  | .jzDrr _ c t => (c, t)
  | .jzRrv _ c t => (c, t)
  | .jzRrr _ c t => (c, t)
  | .jnzDrv _ c t => (c, t)
  | .jnzDrr _ c t => (c, t)
  | .jnzRrv _ c t => (c, t)
  | .jnzRrr _ c t => (c, t)
  | .unassignedC8ToCF _ op1 op2 => (op1, op2)
  | .unassignedD0ToDF _ op1 op2 => (op1, op2)
  | .unassignedE0ToFF _ op1 op2 => (op1, op2)

/-- The instruction word: the opcode byte and the two operand bytes (R64, R78). -/
def encode (p : Params) (i : Instr) : Byte × Byte × Byte :=
  (opcode p i, (operandBytes i).1, (operandBytes i).2)

/-- What the decoder reads from a word of `nbits` bits numbered as spec/opcode_table.json numbers them: `op0` in
bits 23:16, `op1` in 15:8, `op2` in 7:0 (R16, R64), under the default parameters. No instruction is longer than 24
bits. -/
def decodeTableWord (nbits w : Nat) : Option Instr :=
  if nbits ≤ 24 then
    let v := w % 2 ^ nbits
    some (decodeWord Params.default (BitVec.ofNat 8 (v / 65536)) (BitVec.ofNat 8 (v / 256)) (BitVec.ofNat 8 v))
  else none

end Sys2Proof
end

