-- ==== Sys2Proof/Machine/State.lean ====
section
/-! DEFINITION. The machine state (spec/10_state.md R21: banks, x, pc, active, status), the fault record inside `status`
(spec/60_exceptions.md R159, R160), the ways the model stops, and the state after reset (R41). -/

namespace Sys2Proof.Machine

/-- The eight banks (spec/20_memory.md R42) as (256 * bank + cell, byte) pairs, addresses strictly rising, no zero
byte listed. A cell that is not listed reads 0, its reset contents (R55). -/
abbrev Memory := List Host.Cell

/-- The five kinds of run-time fault (R159). -/
inductive FaultKind where
  | registerOutOfRange | bankOutOfRange | arithmeticOverflow | malformedImage | pcOutOfBank
  deriving DecidableEq, Repr

/-- A fault's kind together with the info R159 records for that kind. -/
inductive Cause where
  /-- A register index `i` from an operand byte is 8 or more (R85). -/
  | registerOutOfRange (i : Byte)
  /-- A disc selector `d` above `SELECTOR_MAX` is resolved (R46). -/
  | bankOutOfRange (d : Byte)
  /-- An ADD result above 255 or a SUB result below 0, with the operation and its operands (R113). -/
  | arithmeticOverflow (op : AluOp) (a b : Byte)
  /-- A core input of `n` > 8 bank images (R174). -/
  | malformedCount (n : Nat)
  /-- The first bank image whose length is not 256: its index and its length (R174). -/
  | malformedBank (bank length : Nat)
  /-- A fetch at `pc` > 253, or a fall-through from `pc` = 253 (R83, R88). -/
  | pcOutOfBank (pc : Byte)
  deriving DecidableEq, Repr

/-- The fault record `f = (kind, code, pc, active, op0, info)` of R160. `cause` holds kind and info, the code is a
function of the kind; `pc` and `active` are those at the start of the faulting step; `op0` is none for a fetch fault
and for a malformed image. -/
structure FaultRecord where
  cause : Cause
  pc : Byte
  active : Byte
  op0 : Option Byte
  deriving DecidableEq, Repr

/-- `Running`, `Halted` or `Faulted(f)` (R35). -/
inductive Status where
  | running
  | halted
  | faulted (f : FaultRecord)
  deriving DecidableEq, Repr

/-- The machine state. `banks`, `x`, `pc`, `active`, `status` are the spec's, exhaustively (R21). `freeIndex` and
`params` are the MODEL's own: the counter of free values (log entry 2) and the parameters of R15 (log entry 3). -/
structure State where
  banks : Memory
  x : Vector Byte 8
  pc : Byte
  active : Byte
  status : Status
  freeIndex : Nat
  params : Params
  deriving DecidableEq, Repr

/-- Why the model stops. None of these is a fault of the spec: those are states with status `faulted f`. -/
inductive Fault where
  /-- Raised by `step` in a halted state, which has no step (R82). Safe: nothing follows. -/
  | noStepHalted
  /-- Raised by `step` in a state that a fault ended, which has no step (R82, R161). Safe: nothing follows. -/
  | noStepFaulted (f : FaultRecord)
  /-- Raised by a fetch, SAVE or LOAD in bank `b` >= 8, which does not exist (R42). Only a running state with
  `active` >= 8 gets there, and none is reachable (R33). Safe: the model stops. -/
  | noSuchBank (b : Byte)
  deriving DecidableEq, Repr

/-- Why the model gives an instruction no meaning. -/
inductive Refusal where
  /-- Raised by `exec` for an instruction that is not modelled yet; no arm does so now. Safe: the model stops. -/
  | notModelled (mnemonic : String)
  deriving DecidableEq, Repr

/-- The machine right after reset with no bank image (R41; R174 with n = 0): every cell and register 0, `pc` 0,
`active` 0, Running. The model's own fields are 0 and the defaults (log entries 2, 3). -/
def State.reset : State :=
  { banks := []
    x := Vector.replicate 8 0
    pc := 0
    active := 0
    status := .running
    freeIndex := 0
    params := Params.default }

end Sys2Proof.Machine
end

