-- ==== Sys2Proof/Machine/Ops.lean ====
section
/-! DEFINITION. The named operations of the spec's pseudocode (spec/00_scope.md R18): memory, registers, the bank
selector, the program counter, the checks that can raise a fault, and taking a fault. -/

namespace Sys2Proof.Machine

/-- The outcome of a step or of an instruction. -/
abbrev StepOutcome := Host.Outcome State Fault Refusal

/-! ## Memory (R42, R49) -/

/-- Strictly rising addresses. -/
def Memory.sorted : Memory → Bool
  | [] => true
  | c :: m => m.all (fun e => decide (c.1 < e.1)) && Memory.sorted m

/-- The canonical form: addresses strictly rising, in the 2048 cells of R42, and no entry equal to the 0 that an
unlisted cell reads as. -/
def Memory.wf (m : Memory) : Bool :=
  Memory.sorted m && m.all (fun e => decide (e.1 < 2048) && decide (e.2 ≠ 0))

/-- The byte at cell address `a`: 0 where nothing is listed (R55). -/
def Memory.read (m : Memory) (a : Nat) : Byte :=
  match m with
  | [] => 0
  | e :: rest => if e.1 = a then e.2 else Memory.read rest a

/-- `m` without an entry at `a`. -/
def Memory.erase (m : Memory) (a : Nat) : Memory := m.filter (fun e => decide (e.1 ≠ a))

/-- `m` with the entry (a, v) put before the first greater address. -/
def Memory.insert (m : Memory) (a : Nat) (v : Byte) : Memory :=
  match m with
  | [] => [(a, v)]
  | e :: rest => if a < e.1 then (a, v) :: e :: rest else e :: Memory.insert rest a v

/-- `m` with byte `v` at cell address `a`, in canonical form: a 0 is not listed. -/
def Memory.write (m : Memory) (a : Nat) (v : Byte) : Memory :=
  if v = 0 then Memory.erase m a else Memory.insert (Memory.erase m a) a v

/-- The entries of addresses `a`, a + 1, ... (`n` of them) whose byte `f` is not 0. -/
def Memory.cellsFrom (f : Nat → Byte) (a n : Nat) : Memory :=
  match n with
  | 0 => []
  | k + 1 => if f a = 0 then Memory.cellsFrom f (a + 1) k else (a, f a) :: Memory.cellsFrom f (a + 1) k

/-- The memory whose 2048 cells hold `f`. -/
def Memory.ofCells (f : Nat → Byte) : Memory := Memory.cellsFrom f 0 2048

/-- The pair (b, a) of R42 as one key: 256 * b + a. -/
def cellAddr (b a : Byte) : Nat := 256 * b.toNat + a.toNat

/-- The physical banks are 0..7 (R42). -/
def bankExists (b : Byte) : Bool := decide (b.toNat < 8)

/-- `MemRead((b, a), 1)` (R49). -/
def memRead (s : State) (b a : Byte) : Byte := s.banks.read (cellAddr b a)

/-- `MemWrite((b, a), 1, v)` (R49). -/
def memWrite (s : State) (b a v : Byte) : State := { s with banks := s.banks.write (cellAddr b a) v }

/-! ## Registers, program counter, active bank, status (R18) -/

/-- `x[i]` (R8). -/
def readX (s : State) (i : Fin 8) : Byte := s.x[i]

/-- `x[i] <- v` (R8). -/
def writeX (s : State) (i : Fin 8) (v : Byte) : State := { s with x := s.x.set i v }

/-- `pc <- t` (R18). -/
def setPc (s : State) (t : Byte) : State := { s with pc := t }

/-- `active <- b` (R18). -/
def setActive (s : State) (b : Byte) : State := { s with active := b }

/-- `status <- v` (R18). -/
def setStatus (s : State) (v : Status) : State := { s with status := v }

/-- The register a packed selector names: 0..7, always valid (R26). -/
def selIndex (sel : Sel) : Fin 8 := ⟨sel.toNat, sel.isLt⟩

/-! ## Checks that raise a fault -/

/-- The result of a check: a value, or the faults that apply, the one reached first in front (R91). -/
inductive Checked (α : Type) where
  | ok (v : α)
  | bad (first : Cause) (rest : List Cause)
  deriving DecidableEq, Repr

/-- One check after another that needs its value: only the faults of the first one reached apply. -/
def Checked.bind {α β : Type} (c : Checked α) (k : α → Checked β) : Checked β :=
  match c with
  | .ok v => k v
  | .bad first rest => .bad first rest

/-- A computation on a checked value that raises nothing. -/
def Checked.map {α β : Type} (f : α → β) (c : Checked α) : Checked β :=
  match c with
  | .ok v => .ok (f v)
  | .bad first rest => .bad first rest

/-- Two independent checks, left to right: the faults of both apply, the left one's first (R91; log entry 6). -/
def Checked.both {α β : Type} (c : Checked α) (d : Checked β) : Checked (α × β) :=
  match c, d with
  | .ok v, .ok w => .ok (v, w)
  | .ok _, .bad first rest => .bad first rest
  | .bad first rest, .ok _ => .bad first rest
  | .bad first rest, .bad first' rest' => .bad first (rest ++ first' :: rest')

/-- `reg(i)` (R85): the register named by an operand byte. -/
def reg (s : State) (i : Byte) : Checked Byte :=
  if h : i.toNat < 8 then .ok (readX s ⟨i.toNat, h⟩) else .bad (.registerOutOfRange i) []

/-- `checkReg(i)` (R85): the destination register named by an operand byte. -/
def checkReg (i : Byte) : Checked (Fin 8) :=
  if h : i.toNat < 8 then .ok ⟨i.toNat, h⟩ else .bad (.registerOutOfRange i) []

/-- `resolve(d, active)` (R10, R45, R46): the bank_selector. -/
def resolve (p : Params) (d active : Byte) : Checked Byte :=
  if d = 0 then .ok active
  else if d.toNat ≤ p.selectorMax.toNat then .ok (d - 1)
  else .bad (.bankOutOfRange d) []

/-- The `pc` of `advance()` (R87, R88): `pc + 3` within the bank, the edge by `PC_EDGE_POLICY`. -/
def fallThrough (s : State) : Checked Byte :=
  match s.params.pcEdge with
  | .fault => if s.pc.toNat + 3 > 255 then .bad (.pcOutOfBank s.pc) [] else .ok (s.pc + 3)
  | .wrap => .ok (s.pc + 3)

/-! ## Taking a fault (R90, R160, R161). There is no return from one (R164). -/

/-- The start of a faulting step, as the free values see it. -/
def faultSite (s : State) (op0 : Option Byte) : FaultSite :=
  { freeIndex := s.freeIndex, banks := s.banks, x := s.x, pc := s.pc, active := s.active, op0 := op0 }

/-- The fault reported of those that apply: the first one reached, or under `FAULT_PRIORITY = any` any one (R91,
R162, I4). -/
def reported (s : State) (op0 : Option Byte) (first : Cause) (rest : List Cause) : Cause :=
  match s.params.faultPriority with
  | .order => first
  | .any => ((first :: rest)[Config.faultChoice (faultSite s op0) % (rest.length + 1)]?).getD first

/-- Taking a fault: `status <- Faulted(f)` with the record of R160; the banks, registers, `pc` and `active` are
unspecified from then on, so each is a free value (R90, R163, I3; log entry 1). -/
def takeFault (s : State) (op0 : Option Byte) (cause : Cause) : State :=
  { banks := Memory.ofCells (Config.bankByteAfterFault (faultSite s op0))
    x := Vector.ofFn (Config.xAfterFault (faultSite s op0))
    pc := Config.pcAfterFault (faultSite s op0)
    active := Config.activeAfterFault (faultSite s op0)
    status := .faulted { cause := cause, pc := s.pc, active := s.active, op0 := op0 }
    freeIndex := s.freeIndex + 1
    params := s.params }

/-- The end of instruction `i` begun in `s`: its writes are committed by `k` if no check raised a fault, else the
fault is taken and nothing is committed (R89, R90). -/
def commit {α : Type} (i : Instr) (s : State) (c : Checked α) (k : α → StepOutcome) : StepOutcome :=
  match c with
  | .ok v => k v
  | .bad first rest =>
    let op0 := some (opcode s.params i)
    .next (takeFault s op0 (reported s op0 first rest))

/-! ## Reading a fault record (R159, R160) -/

/-- The fault codes 1 to 5 of R159. -/
def FaultKind.code : FaultKind → Nat
  | .registerOutOfRange => 1
  | .bankOutOfRange => 2
  | .arithmeticOverflow => 3
  | .malformedImage => 4
  | .pcOutOfBank => 5

/-- The kind of a cause (R159). -/
def Cause.kind : Cause → FaultKind
  | .registerOutOfRange _ => .registerOutOfRange
  | .bankOutOfRange _ => .bankOutOfRange
  | .arithmeticOverflow _ _ _ => .arithmeticOverflow
  | .malformedCount _ => .malformedImage
  | .malformedBank _ _ => .malformedImage
  | .pcOutOfBank _ => .pcOutOfBank

/-- The record's kind (R160). -/
def FaultRecord.kind (f : FaultRecord) : FaultKind := f.cause.kind

/-- The record's code (R160). -/
def FaultRecord.code (f : FaultRecord) : Nat := f.kind.code

/-! ## Fetch (R83) -/

/-- The fetch edge: the word at `pc` would extend past cell 255, and `PC_EDGE_POLICY` makes that a fault. -/
def fetchEdge (s : State) : Bool := decide (s.params.pcEdge = .fault) && decide (s.pc.toNat > 253)

/-- Byte `k` of the word at `pc`, in the active bank; under `wrap` the offset is taken modulo 256. -/
def fetchByte (s : State) (k : Byte) : Byte := memRead s s.active (s.pc + k)

/-- The instruction at `(active, pc)` (R83, R84). -/
def fetched (s : State) : Instr := decodeWord s.params (fetchByte s 0) (fetchByte s 1) (fetchByte s 2)

/-- `s` with the three bytes of a word stored at `(active, pc)`, lowest offset first (R50). -/
def placeWord (s : State) (op0 op1 op2 : Byte) : State :=
  memWrite (memWrite (memWrite s s.active s.pc op0) s.active (s.pc + 1) op1) s.active (s.pc + 2) op2

end Sys2Proof.Machine
end

