-- ==== Sys2Proof/Machine/Operands.lean ====
section
/-! DEFINITION. The operand forms: D, V and R in each position (spec/30_encoding.md R67, R68; spec/40_engine_cycle.md R85, R86). -/

namespace Sys2Proof.Machine

/-- D in format P: the bank of a literal packed selector (R86). -/
def bankOfLiteralSel (s : State) (d : Sel) : Checked Byte := resolve s.params (d.setWidth 8) s.active

/-- R in format P, operand 1: the bank of the selector that register `rd` holds (R86). -/
def bankOfHeldSel (s : State) (rd : Sel) : Checked Byte := resolve s.params (readX s (selIndex rd)) s.active

/-- D of JMP: the bank of a literal selector byte (R153, R154). -/
def bankOfLiteral (s : State) (d : Byte) : Checked Byte := resolve s.params d s.active

/-- R of JMP, operand 1: the register read, then the bank resolution (R91, R155, R156). -/
def bankOfHeld (s : State) (rd : Byte) : Checked Byte := (reg s rd).bind (fun d => resolve s.params d s.active)

/-- V: the operand byte itself, 0..255 (R67). -/
def literal (v : Byte) : Checked Byte := .ok v

/-- R, a source: the contents of the register the operand byte names (R67, R85). -/
def source (s : State) (r : Byte) : Checked Byte := reg s r

/-- R, a destination: the register the operand byte names (R67, R85). -/
def dest (r : Byte) : Checked (Fin 8) := checkReg r

end Sys2Proof.Machine
end

