-- ==== Sys2Proof/Machine/Flags.lean ====
section
/-! DEFINITION. The machine has no flags (spec/10_state.md R37). This file holds what stands in their place: the alu with its
overflow test (spec/42_set_alu.md R113), the compare result (spec/43_compare.md R129) and the conditions of JZ and
JNZ (spec/44_control.md R142). -/

namespace Sys2Proof.Machine

/-- `alu(op, a, b)` (R12, R113): computed exactly, then stored in a byte after the range check (R17). The meanings of
OR, XOR, NOR and AND are G1 (log entry 14). -/
def alu (op : AluOp) (a b : Byte) : Checked Byte :=
  match op with
  | .add =>
    if a.toNat + b.toNat > 255 then .bad (.arithmeticOverflow .add a b) []
    else .ok (BitVec.ofNat 8 (a.toNat + b.toNat))
  | .sub =>
    if a.toNat < b.toNat then .bad (.arithmeticOverflow .sub a b) []
    else .ok (BitVec.ofNat 8 (a.toNat - b.toNat))
  | .or => .ok (a ||| b)
  | .xor => .ok (a ^^^ b)
  | .nor => .ok (~~~(a ||| b))
  | .and => .ok (a &&& b)

/-- The relation a comparison evaluates, on unsigned bytes (R129; G2, log entry 14). -/
def relates (rel : CmpRel) (a b : Byte) : Bool :=
  match rel with
  | .grt => decide (a.toNat > b.toNat)
  | .lst => decide (a.toNat < b.toNat)
  | .greqt => decide (a.toNat ≥ b.toNat)
  | .lseqt => decide (a.toNat ≤ b.toNat)
  | .eql => decide (a = b)
  | .neql => decide (a ≠ b)

/-- `cmp(rel, a, b)`: 1 for true, 0 for false (R129). -/
def cmpResult (rel : CmpRel) (a b : Byte) : Byte := if relates rel a b then 1 else 0

/-- JZ is taken when the condition register is zero (R142). -/
def takenIfZero (c : Byte) : Bool := decide (c = 0)

/-- JNZ is taken when the condition register is not zero (R142). -/
def takenIfNonZero (c : Byte) : Bool := decide (c ≠ 0)

end Sys2Proof.Machine
end

