-- ==== Sys2Proof/Machine/Save.lean ====
section
/-! DEFINITION. SAVE, eight modes (spec/41_save_load.md R96, R98 to R105). -/

namespace Sys2Proof.Machine

/-- SAVE (R96): `banks[bank][index] <- value; advance()`, the operands checked in the order bank, index, value, then
the fall-through edge (R91). Only a state with `active` >= 8 reaches a bank that does not exist. -/
def saveWith (i : Instr) (s : State) (bank index value : Checked Byte) : StepOutcome :=
  commit i s (bank.both (index.both (value.both (fallThrough s)))) fun (b, a, v, next) =>
    if bankExists b then .next (setPc (memWrite s b a v) next) else .fault (.noSuchBank b)

/-- SAVE DVV (R98): literal selector, literal index, literal value. -/
def execSaveDvv (d : Sel) (idx v : Byte) (s : State) : StepOutcome :=
  saveWith (.saveDvv d idx v) s (bankOfLiteralSel s d) (literal idx) (literal v)

/-- SAVE DVR (R99): literal selector, literal index, register-held value. -/
def execSaveDvr (d : Sel) (idx r : Byte) (s : State) : StepOutcome :=
  saveWith (.saveDvr d idx r) s (bankOfLiteralSel s d) (literal idx) (source s r)

/-- SAVE DRV (R100): literal selector, register-held index, literal value. -/
def execSaveDrv (d : Sel) (ri v : Byte) (s : State) : StepOutcome :=
  saveWith (.saveDrv d ri v) s (bankOfLiteralSel s d) (source s ri) (literal v)

/-- SAVE DRR (R101): literal selector, register-held index, register-held value. -/
def execSaveDrr (d : Sel) (ri r : Byte) (s : State) : StepOutcome :=
  saveWith (.saveDrr d ri r) s (bankOfLiteralSel s d) (source s ri) (source s r)

/-- SAVE RVV (R102): register-held selector, literal index, literal value. -/
def execSaveRvv (rd : Sel) (idx v : Byte) (s : State) : StepOutcome :=
  saveWith (.saveRvv rd idx v) s (bankOfHeldSel s rd) (literal idx) (literal v)

/-- SAVE RVR (R103): register-held selector, literal index, register-held value. -/
def execSaveRvr (rd : Sel) (idx r : Byte) (s : State) : StepOutcome :=
  saveWith (.saveRvr rd idx r) s (bankOfHeldSel s rd) (literal idx) (source s r)

/-- SAVE RRV (R104): register-held selector, register-held index, literal value. -/
def execSaveRrv (rd : Sel) (ri v : Byte) (s : State) : StepOutcome :=
  saveWith (.saveRrv rd ri v) s (bankOfHeldSel s rd) (source s ri) (literal v)

/-- SAVE RRR (R105): register-held selector, register-held index, register-held value. -/
def execSaveRrr (rd : Sel) (ri r : Byte) (s : State) : StepOutcome :=
  saveWith (.saveRrr rd ri r) s (bankOfHeldSel s rd) (source s ri) (source s r)

end Sys2Proof.Machine
end

