-- ==== Sys2Proof/Machine/Load.lean ====
section
/-! DEFINITION. LOAD, four modes (spec/41_save_load.md R97, R106 to R109). -/

namespace Sys2Proof.Machine

/-- LOAD (R97): `x[dst] <- banks[bank][index]; advance()`, the operands checked in the order bank, index, destination,
then the fall-through edge (R91). Only a state with `active` >= 8 reaches a bank that does not exist. -/
def loadWith (i : Instr) (s : State) (bank index : Checked Byte) (dst : Checked (Fin 8)) : StepOutcome :=
  commit i s (bank.both (index.both (dst.both (fallThrough s)))) fun (b, a, r, next) =>
    if bankExists b then .next (setPc (writeX s r (memRead s b a)) next) else .fault (.noSuchBank b)

/-- LOAD DVR (R106): literal selector, literal index. -/
def execLoadDvr (d : Sel) (idx r : Byte) (s : State) : StepOutcome :=
  loadWith (.loadDvr d idx r) s (bankOfLiteralSel s d) (literal idx) (dest r)

/-- LOAD DRR (R107): literal selector, register-held index. -/
def execLoadDrr (d : Sel) (ri r : Byte) (s : State) : StepOutcome :=
  loadWith (.loadDrr d ri r) s (bankOfLiteralSel s d) (source s ri) (dest r)

/-- LOAD RVR (R108): register-held selector, literal index. -/
def execLoadRvr (rd : Sel) (idx r : Byte) (s : State) : StepOutcome :=
  loadWith (.loadRvr rd idx r) s (bankOfHeldSel s rd) (literal idx) (dest r)

/-- LOAD RRR (R109): register-held selector, register-held index. -/
def execLoadRrr (rd : Sel) (ri r : Byte) (s : State) : StepOutcome :=
  loadWith (.loadRrr rd ri r) s (bankOfHeldSel s rd) (source s ri) (dest r)

end Sys2Proof.Machine
end

