-- ==== Sys2Proof/Machine/SetAlu.lean ====
section
/-! DEFINITION. SET and the arithmetic and logic instructions (spec/42_set_alu.md R110 to R127). -/

namespace Sys2Proof.Machine

/-- SET (R110, R111): `x[dst] <- value; advance()`, the destination checked first (R91). -/
def setWith (i : Instr) (s : State) (dst : Checked (Fin 8)) (value : Checked Byte) : StepOutcome :=
  commit i s (dst.both (value.both (fallThrough s))) fun (r, v, next) => .next (setPc (writeX s r v) next)

/-- An arithmetic or logic instruction (R112): `x[0] <- alu(op, a, b); advance()`, always into R0 (R24). -/
def aluWith (i : Instr) (s : State) (op : AluOp) (a b : Checked Byte) : StepOutcome :=
  commit i s (((a.both b).bind fun (u, v) => alu op u v).both (fallThrough s)) fun (r, next) =>
    .next (setPc (writeX s 0 r) next)

/-- SET RV (R110): a literal value. -/
def execSetRv (r v : Byte) (s : State) : StepOutcome :=
  setWith (.setRv r v) s (dest r) (literal v)

/-- SET RR (R111): a register-held value. -/
def execSetRr (r r2 : Byte) (s : State) : StepOutcome :=
  setWith (.setRr r r2) s (dest r) (source s r2)

/-- ADD RV (R115): R0 from a register and a literal. -/
def execAddRv (r v : Byte) (s : State) : StepOutcome :=
  aluWith (.addRv r v) s .add (source s r) (literal v)

/-- ADD RR (R116): R0 from a register and a register. -/
def execAddRr (r r2 : Byte) (s : State) : StepOutcome :=
  aluWith (.addRr r r2) s .add (source s r) (source s r2)

/-- SUB RV (R117): R0 from a register and a literal. -/
def execSubRv (r v : Byte) (s : State) : StepOutcome :=
  aluWith (.subRv r v) s .sub (source s r) (literal v)

/-- SUB RR (R118): R0 from a register and a register. -/
def execSubRr (r r2 : Byte) (s : State) : StepOutcome :=
  aluWith (.subRr r r2) s .sub (source s r) (source s r2)

/-- SUB VR (R119): R0 from a literal and a register. -/
def execSubVr (v r : Byte) (s : State) : StepOutcome :=
  aluWith (.subVr v r) s .sub (literal v) (source s r)

/-- OR RV (R120): R0 from a register and a literal. -/
def execOrRv (r v : Byte) (s : State) : StepOutcome :=
  aluWith (.orRv r v) s .or (source s r) (literal v)

/-- OR RR (R121): R0 from a register and a register. -/
def execOrRr (r r2 : Byte) (s : State) : StepOutcome :=
  aluWith (.orRr r r2) s .or (source s r) (source s r2)

/-- XOR RV (R122): R0 from a register and a literal. -/
def execXorRv (r v : Byte) (s : State) : StepOutcome :=
  aluWith (.xorRv r v) s .xor (source s r) (literal v)

/-- XOR RR (R123): R0 from a register and a register. -/
def execXorRr (r r2 : Byte) (s : State) : StepOutcome :=
  aluWith (.xorRr r r2) s .xor (source s r) (source s r2)

/-- NOR RV (R124): R0 from a register and a literal. -/
def execNorRv (r v : Byte) (s : State) : StepOutcome :=
  aluWith (.norRv r v) s .nor (source s r) (literal v)

/-- NOR RR (R125): R0 from a register and a register. -/
def execNorRr (r r2 : Byte) (s : State) : StepOutcome :=
  aluWith (.norRr r r2) s .nor (source s r) (source s r2)

/-- AND RV (R126): R0 from a register and a literal. -/
def execAndRv (r v : Byte) (s : State) : StepOutcome :=
  aluWith (.andRv r v) s .and (source s r) (literal v)

/-- AND RR (R127): R0 from a register and a register. -/
def execAndRr (r r2 : Byte) (s : State) : StepOutcome :=
  aluWith (.andRr r r2) s .and (source s r) (source s r2)

end Sys2Proof.Machine
end

