-- ==== Sys2Proof/Machine/Compare.lean ====
section
/-! DEFINITION. The comparison instructions (spec/43_compare.md R128 to R141). -/

namespace Sys2Proof.Machine

/-- A comparison (R128): `x[0] <- cmp(rel, a, b); advance()`, always into R0 (R24), `a` the first operand. -/
def compareWith (i : Instr) (s : State) (rel : CmpRel) (a b : Checked Byte) : StepOutcome :=
  commit i s ((a.both b).both (fallThrough s)) fun ((u, v), next) => .next (setPc (writeX s 0 (cmpResult rel u v)) next)

/-- GRT RV (R130): a register against a literal. -/
def execGrtRv (r v : Byte) (s : State) : StepOutcome :=
  compareWith (.grtRv r v) s .grt (source s r) (literal v)

/-- GRT RR (R131): a register against a register. -/
def execGrtRr (r r2 : Byte) (s : State) : StepOutcome :=
  compareWith (.grtRr r r2) s .grt (source s r) (source s r2)

/-- LST RV (R132): a register against a literal. -/
def execLstRv (r v : Byte) (s : State) : StepOutcome :=
  compareWith (.lstRv r v) s .lst (source s r) (literal v)

/-- LST RR (R133): a register against a register. -/
def execLstRr (r r2 : Byte) (s : State) : StepOutcome :=
  compareWith (.lstRr r r2) s .lst (source s r) (source s r2)

/-- GREQT RV (R134): a register against a literal. -/
def execGreqtRv (r v : Byte) (s : State) : StepOutcome :=
  compareWith (.greqtRv r v) s .greqt (source s r) (literal v)

/-- GREQT RR (R135): a register against a register. -/
def execGreqtRr (r r2 : Byte) (s : State) : StepOutcome :=
  compareWith (.greqtRr r r2) s .greqt (source s r) (source s r2)

/-- LSEQT RV (R136): a register against a literal. -/
def execLseqtRv (r v : Byte) (s : State) : StepOutcome :=
  compareWith (.lseqtRv r v) s .lseqt (source s r) (literal v)

/-- LSEQT RR (R137): a register against a register. -/
def execLseqtRr (r r2 : Byte) (s : State) : StepOutcome :=
  compareWith (.lseqtRr r r2) s .lseqt (source s r) (source s r2)

/-- EQL RV (R138): a register against a literal. -/
def execEqlRv (r v : Byte) (s : State) : StepOutcome :=
  compareWith (.eqlRv r v) s .eql (source s r) (literal v)

/-- EQL RR (R139): a register against a register. -/
def execEqlRr (r r2 : Byte) (s : State) : StepOutcome :=
  compareWith (.eqlRr r r2) s .eql (source s r) (source s r2)

/-- NEQL RV (R140): a register against a literal. -/
def execNeqlRv (r v : Byte) (s : State) : StepOutcome :=
  compareWith (.neqlRv r v) s .neql (source s r) (literal v)

/-- NEQL RR (R141): a register against a register. -/
def execNeqlRr (r r2 : Byte) (s : State) : StepOutcome :=
  compareWith (.neqlRr r r2) s .neql (source s r) (source s r2)

end Sys2Proof.Machine
end

