-- ==== Sys2Proof/Machine/Control.lean ====
section
/-! DEFINITION. Control transfer and halt: JZ, JNZ, JMP, END and the unassigned opcodes (spec/44_control.md R142 to R158). -/

namespace Sys2Proof.Machine

/-- The fall-through of a conditional jump (R142): none where the condition, if it can be read, takes the jump. -/
def untaken (s : State) (taken : Byte → Bool) (c : Checked Byte) : Checked (Option Byte) :=
  match c with
  | .ok v => if taken v then .ok none else (fallThrough s).map some
  | .bad _ _ => .ok none

/-- JZ and JNZ (R142): every operand is checked, taken or not, in the order bank, condition, target (R91); taken, the
jump sets `active` and `pc`, else `pc` advances. -/
def branchWith (i : Instr) (s : State) (taken : Byte → Bool) (bank c target : Checked Byte) : StepOutcome :=
  commit i s (bank.both (c.both (target.both (untaken s taken c)))) fun (b, _, t, fall) =>
    match fall with
    | none => .next (setPc (setActive s b) t)
    | some next => .next (setPc s next)

/-- JMP (R142): `active <- bank; pc <- target`, with no fall-through edge. -/
def jumpWith (i : Instr) (s : State) (bank target : Checked Byte) : StepOutcome :=
  commit i s (bank.both target) fun (b, t) => .next (setPc (setActive s b) t)

/-- END (R157): `status <- Halted` and nothing else. -/
def haltNow (s : State) : StepOutcome := .next (setStatus s .halted)

/-- JZ DRV (R145): literal selector, literal target. -/
def execJzDrv (d : Sel) (c t : Byte) (s : State) : StepOutcome :=
  branchWith (.jzDrv d c t) s takenIfZero (bankOfLiteralSel s d) (source s c) (literal t)

/-- JZ DRR (R146): literal selector, register-held target. -/
def execJzDrr (d : Sel) (c t : Byte) (s : State) : StepOutcome :=
  branchWith (.jzDrr d c t) s takenIfZero (bankOfLiteralSel s d) (source s c) (source s t)

/-- JZ RRV (R147): register-held selector, literal target. -/
def execJzRrv (rd : Sel) (c t : Byte) (s : State) : StepOutcome :=
  branchWith (.jzRrv rd c t) s takenIfZero (bankOfHeldSel s rd) (source s c) (literal t)

/-- JZ RRR (R148): register-held selector, register-held target. -/
def execJzRrr (rd : Sel) (c t : Byte) (s : State) : StepOutcome :=
  branchWith (.jzRrr rd c t) s takenIfZero (bankOfHeldSel s rd) (source s c) (source s t)

/-- JNZ DRV (R149): literal selector, literal target. -/
def execJnzDrv (d : Sel) (c t : Byte) (s : State) : StepOutcome :=
  branchWith (.jnzDrv d c t) s takenIfNonZero (bankOfLiteralSel s d) (source s c) (literal t)

/-- JNZ DRR (R150): literal selector, register-held target. -/
def execJnzDrr (d : Sel) (c t : Byte) (s : State) : StepOutcome :=
  branchWith (.jnzDrr d c t) s takenIfNonZero (bankOfLiteralSel s d) (source s c) (source s t)

/-- JNZ RRV (R151): register-held selector, literal target. -/
def execJnzRrv (rd : Sel) (c t : Byte) (s : State) : StepOutcome :=
  branchWith (.jnzRrv rd c t) s takenIfNonZero (bankOfHeldSel s rd) (source s c) (literal t)

/-- JNZ RRR (R152): register-held selector, register-held target. -/
def execJnzRrr (rd : Sel) (c t : Byte) (s : State) : StepOutcome :=
  branchWith (.jnzRrr rd c t) s takenIfNonZero (bankOfHeldSel s rd) (source s c) (source s t)

/-- JMP DV (R153): literal selector, literal target. -/
def execJmpDv (d t : Byte) (s : State) : StepOutcome :=
  jumpWith (.jmpDv d t) s (bankOfLiteral s d) (literal t)

/-- JMP DR (R154): literal selector, register-held target. -/
def execJmpDr (d t : Byte) (s : State) : StepOutcome :=
  jumpWith (.jmpDr d t) s (bankOfLiteral s d) (source s t)

/-- JMP RV (R155): register-held selector, literal target. -/
def execJmpRv (rd t : Byte) (s : State) : StepOutcome :=
  jumpWith (.jmpRv rd t) s (bankOfHeld s rd) (literal t)

/-- JMP RR (R156): register-held selector, register-held target. -/
def execJmpRr (rd t : Byte) (s : State) : StepOutcome :=
  jumpWith (.jmpRr rd t) s (bankOfHeld s rd) (source s t)

/-- END (R157): halts; the operand bytes are ignored. -/
def execEndZ (_op1 _op2 : Byte) (s : State) : StepOutcome :=
  haltNow s

/-- END unassigned 0x01 (R158): halts; the operand bytes are ignored. -/
def execUnassigned01 (_op1 _op2 : Byte) (s : State) : StepOutcome :=
  haltNow s

/-- END unassigned 0x02..0x03 (R158): halts; the operand bytes are ignored. -/
def execUnassigned02To03 (_u : BitVec 1) (_op1 _op2 : Byte) (s : State) : StepOutcome :=
  haltNow s

/-- END unassigned 0x04..0x07 (R158): halts; the operand bytes are ignored. -/
def execUnassigned04To07 (_u : BitVec 2) (_op1 _op2 : Byte) (s : State) : StepOutcome :=
  haltNow s

/-- END unassigned 0x87 (R158): halts; the operand bytes are ignored. -/
def execUnassigned87 (_op1 _op2 : Byte) (s : State) : StepOutcome :=
  haltNow s

/-- END unassigned 0xC8..0xCF (R158): halts; the operand bytes are ignored. -/
def execUnassignedC8ToCF (_u : Sel) (_op1 _op2 : Byte) (s : State) : StepOutcome :=
  haltNow s

/-- END unassigned 0xD0..0xDF (R158): halts; the operand bytes are ignored. -/
def execUnassignedD0ToDF (_u : BitVec 4) (_op1 _op2 : Byte) (s : State) : StepOutcome :=
  haltNow s

/-- END unassigned 0xE0..0xFF (R158): halts; the operand bytes are ignored. -/
def execUnassignedE0ToFF (_u : BitVec 5) (_op1 _op2 : Byte) (s : State) : StepOutcome :=
  haltNow s

end Sys2Proof.Machine
end

