-- ==== Sys2Proof/Machine/Dispatch.lean ====
section
/-! DEFINITION. exec: one arm per constructor of Instr, each one direct call of its meaning. -/

namespace Sys2Proof.Machine

def exec (i : Instr) (s : State) : Host.Outcome State Fault Refusal :=
  match i with
  | .endZ op1 op2 => Sys2Proof.Machine.execEndZ op1 op2 s
  | .unassigned01 op1 op2 => Sys2Proof.Machine.execUnassigned01 op1 op2 s
  | .unassigned02To03 u op1 op2 => Sys2Proof.Machine.execUnassigned02To03 u op1 op2 s
  | .unassigned04To07 u op1 op2 => Sys2Proof.Machine.execUnassigned04To07 u op1 op2 s
  | .saveDvv d idx v => Sys2Proof.Machine.execSaveDvv d idx v s
  | .saveDvr d idx r => Sys2Proof.Machine.execSaveDvr d idx r s
  | .saveDrv d ri v => Sys2Proof.Machine.execSaveDrv d ri v s
  | .saveDrr d ri r => Sys2Proof.Machine.execSaveDrr d ri r s
  | .saveRvv rd idx v => Sys2Proof.Machine.execSaveRvv rd idx v s
  | .saveRvr rd idx r => Sys2Proof.Machine.execSaveRvr rd idx r s
  | .saveRrv rd ri v => Sys2Proof.Machine.execSaveRrv rd ri v s
  | .saveRrr rd ri r => Sys2Proof.Machine.execSaveRrr rd ri r s
  | .loadDvr d idx r => Sys2Proof.Machine.execLoadDvr d idx r s
  | .loadDrr d ri r => Sys2Proof.Machine.execLoadDrr d ri r s
  | .loadRvr rd idx r => Sys2Proof.Machine.execLoadRvr rd idx r s
  | .loadRrr rd ri r => Sys2Proof.Machine.execLoadRrr rd ri r s
  | .addRv r v => Sys2Proof.Machine.execAddRv r v s
  | .addRr r r2 => Sys2Proof.Machine.execAddRr r r2 s
  | .subRv r v => Sys2Proof.Machine.execSubRv r v s
  | .subRr r r2 => Sys2Proof.Machine.execSubRr r r2 s
  | .subVr v r => Sys2Proof.Machine.execSubVr v r s
  | .orRv r v => Sys2Proof.Machine.execOrRv r v s
  | .orRr r r2 => Sys2Proof.Machine.execOrRr r r2 s
  | .xorRv r v => Sys2Proof.Machine.execXorRv r v s
  | .xorRr r r2 => Sys2Proof.Machine.execXorRr r r2 s
  | .norRv r v => Sys2Proof.Machine.execNorRv r v s
  | .norRr r r2 => Sys2Proof.Machine.execNorRr r r2 s
  | .andRv r v => Sys2Proof.Machine.execAndRv r v s
  | .andRr r r2 => Sys2Proof.Machine.execAndRr r r2 s
  | .grtRv r v => Sys2Proof.Machine.execGrtRv r v s
  | .grtRr r r2 => Sys2Proof.Machine.execGrtRr r r2 s
  | .lstRv r v => Sys2Proof.Machine.execLstRv r v s
  | .lstRr r r2 => Sys2Proof.Machine.execLstRr r r2 s
  | .greqtRv r v => Sys2Proof.Machine.execGreqtRv r v s
  | .greqtRr r r2 => Sys2Proof.Machine.execGreqtRr r r2 s
  | .lseqtRv r v => Sys2Proof.Machine.execLseqtRv r v s
  | .lseqtRr r r2 => Sys2Proof.Machine.execLseqtRr r r2 s
  | .eqlRv r v => Sys2Proof.Machine.execEqlRv r v s
  | .eqlRr r r2 => Sys2Proof.Machine.execEqlRr r r2 s
  | .neqlRv r v => Sys2Proof.Machine.execNeqlRv r v s
  | .neqlRr r r2 => Sys2Proof.Machine.execNeqlRr r r2 s
  | .setRv r v => Sys2Proof.Machine.execSetRv r v s
  | .setRr r r2 => Sys2Proof.Machine.execSetRr r r2 s
  | .jmpDv d t => Sys2Proof.Machine.execJmpDv d t s
  | .jmpDr d t => Sys2Proof.Machine.execJmpDr d t s
  | .jmpRv rd t => Sys2Proof.Machine.execJmpRv rd t s
  | .jmpRr rd t => Sys2Proof.Machine.execJmpRr rd t s
  | .unassigned87 op1 op2 => Sys2Proof.Machine.execUnassigned87 op1 op2 s
  | .jzDrv d c t => Sys2Proof.Machine.execJzDrv d c t s
  | .jzDrr d c t => Sys2Proof.Machine.execJzDrr d c t s
  | .jzRrv rd c t => Sys2Proof.Machine.execJzRrv rd c t s
  | .jzRrr rd c t => Sys2Proof.Machine.execJzRrr rd c t s
  | .jnzDrv d c t => Sys2Proof.Machine.execJnzDrv d c t s
  | .jnzDrr d c t => Sys2Proof.Machine.execJnzDrr d c t s
  | .jnzRrv rd c t => Sys2Proof.Machine.execJnzRrv rd c t s
  | .jnzRrr rd c t => Sys2Proof.Machine.execJnzRrr rd c t s
  | .unassignedC8ToCF u op1 op2 => Sys2Proof.Machine.execUnassignedC8ToCF u op1 op2 s
  | .unassignedD0ToDF u op1 op2 => Sys2Proof.Machine.execUnassignedD0ToDF u op1 op2 s
  | .unassignedE0ToFF u op1 op2 => Sys2Proof.Machine.execUnassignedE0ToFF u op1 op2 s

end Sys2Proof.Machine
end

