-- ==== Sys2Proof/Machine/Step.lean ====
section
/-! DEFINITION. One step of the engine (spec/40_engine_cycle.md R82 to R91), and the placing of a word where it is fetched. -/

namespace Sys2Proof.Machine

/-- One step: only a running state has one (R82). Fetch comes first and its edge is checked before decode (R83, R91);
then the decoded instruction runs (R84). -/
def step (s : State) : Host.Outcome State Fault Refusal :=
  match s.status with
  | .halted => .fault .noStepHalted
  | .faulted f => .fault (.noStepFaulted f)
  | .running =>
    if fetchEdge s then .next (takeFault s none (.pcOutOfBank s.pc))
    else if bankExists s.active then exec (fetched s) s
    else .fault (.noSuchBank s.active)

/-- `s` with the word `w` of `nbits` bits (numbered as spec/opcode_table.json numbers it: `op0` in bits 23:16) stored
at `(active, pc)`, where `step` fetches next (R83). Log entry 10 says how a program comes to run from reset. -/
def State.withFetchWord (s : State) (nbits w : Nat) : State :=
  let v := w % 2 ^ nbits
  placeWord s (BitVec.ofNat 8 (v / 65536)) (BitVec.ofNat 8 (v / 256)) (BitVec.ofNat 8 v)

end Sys2Proof.Machine
end

