-- ==== Sys2Proof/Machine/Run.lean ====
section
/-! DEFINITION. Reset from a core input (spec/70_reset_and_hazards.md R174), and the run and its result
(spec/40_engine_cycle.md R92, R93). -/

namespace Sys2Proof.Machine

/-- The byte at cell address `k` that an image gives: byte `k % 256` of image bank `k / 256`, 0 where there is none
(R55, R174). -/
def imageByte (image : List (List Byte)) (k : Nat) : Byte := ((image[k / 256]?.getD [])[k % 256]?).getD 0

/-- The first image from bank `i` up whose length is not 256, with that length (R174, D15). -/
def firstBadBank (i : Nat) : List (List Byte) → Option (Nat × Nat)
  | [] => none
  | b :: rest => if b.length = 256 then firstBadBank (i + 1) rest else some (i, b.length)

/-- The check of the core input (R174): the count first, then each image from bank 0 up. -/
def malformed (image : List (List Byte)) : Option Cause :=
  if image.length > 8 then some (.malformedCount image.length)
  else (firstBadBank 0 image).map fun (i, n) => .malformedBank i n

/-- `reset(image)` (R174) under parameters `p`, with `n` as the model's counter of free values. A malformed input is
the fault MalformedImage before any step, and leaves the rest unspecified (I3, I12). -/
def State.resetWith (p : Params) (n : Nat) (image : List (List Byte)) : State :=
  let zeroed : State := { State.reset with params := p, freeIndex := n }
  match malformed image with
  | some cause => takeFault zeroed none cause
  | none => { zeroed with banks := Memory.ofCells (imageByte image) }

/-- The result of a run (R93). -/
inductive RunResult where
  | success
  | failure (f : FaultRecord)
  | outOfFuel
  deriving DecidableEq, Repr

/-- The result a state stands for (R93): still Running means that the host's bound stopped the run. -/
def resultOf (s : State) : RunResult :=
  match s.status with
  | .running => .outOfFuel
  | .halted => .success
  | .faulted f => .failure f

/-- The run loop (R92): steps while Running and while there is fuel. A stop of the model's own passes through. -/
def runLoop (fuel : Nat) (s : State) : StepOutcome :=
  match fuel with
  | 0 => .next s
  | k + 1 =>
    match s.status with
    | .running =>
      match step s with
      | .next t => runLoop k t
      | .fault r => .fault r
      | .refused r => .refused r
    | .halted => .next s
    | .faulted _ => .next s

/-- `run(image, fuel)` (R92): the state the host receives; `resultOf` gives its result (R93). -/
def runImage (p : Params) (n : Nat) (image : List (List Byte)) (fuel : Nat) : StepOutcome :=
  runLoop fuel (State.resetWith p n image)

end Sys2Proof.Machine
end

