-- ==== Sys2Proof/Safety.lean ====
section
/-! DEFINITION. The terms that claims are stated in: what an operand selects, when the program counter can advance, what it is
for an outcome to be a fault, the classes of instructions, and the invariant of the machine. None of these is used by
the step function. -/

namespace Sys2Proof.Machine

/-! ## Operands, as the spec words them -/

/-- Operand byte `i` names a register, 0..7, and the register holds `v` (R85). -/
abbrev Holds (s : State) (i v : Byte) : Prop := s.x[i.toNat]? = some v

/-- The register that packed selector `rd` names holds `v` (R86). -/
abbrev HoldsSel (s : State) (rd : Sel) (v : Byte) : Prop := s.x[rd.toNat]? = some v

/-- Operand byte `i` names no register (R85). -/
abbrev NoRegister (i : Byte) : Prop := 8 ≤ i.toNat

/-- Disc selector `d` names bank `b`: 0 is the active bank, 1..SELECTOR_MAX is bank d - 1 (R45). -/
abbrev SelectsBank (s : State) (d b : Byte) : Prop :=
  (d = 0 ∧ b = s.active) ∨ (1 ≤ d.toNat ∧ d.toNat ≤ s.params.selectorMax.toNat ∧ b.toNat + 1 = d.toNat)

/-- Disc selector `d` names no bank (R46). -/
abbrev NoBank (s : State) (d : Byte) : Prop := s.params.selectorMax.toNat < d.toNat

/-- The fall-through from `s` goes to `n`: `pc + 3` within the bank, or modulo 256 under `wrap` (R87, R88). -/
abbrev FallsTo (s : State) (n : Byte) : Prop :=
  n.toNat = s.pc.toNat + 3 ∨ (s.params.pcEdge = .wrap ∧ n.toNat = (s.pc.toNat + 3) % 256)

/-- A fall-through from `s` passes the end of the bank, and that is a fault (R88). -/
abbrev FallsOff (s : State) : Prop := s.params.pcEdge = .fault ∧ 253 ≤ s.pc.toNat

/-! ## Outcomes -/

/-- The state is one that a fault ended. -/
def Status.isFaulted : Status → Bool
  | .running => false
  | .halted => false
  | .faulted _ => true

/-- `o` is a fault taken from `s` with cause `c` and opcode byte `op0`: the record is R160's. The rest of the state is
not mentioned: it is unspecified (R90). -/
def FaultsWith (o : StepOutcome) (s : State) (op0 : Option Byte) (c : Cause) : Prop :=
  ∃ t, o = .next t ∧ t.status = .faulted { cause := c, pc := s.pc, active := s.active, op0 := op0 }

/-- `o` is a fault of some kind: all that a claim may say under FAULT_PRIORITY = any (I4). -/
def Faults (o : StepOutcome) : Prop := ∃ t f, o = .next t ∧ t.status = .faulted f

/-- A safe run's state: no fault has ended it. -/
def State.Safe (s : State) : Bool := !s.status.isFaulted

end Sys2Proof.Machine

namespace Sys2Proof

/-! ## Classes of instructions -/

/-- END and the unassigned opcodes (R157, R158). -/
def Instr.isHalt : Instr → Bool
  | .endZ _ _ | .unassigned01 _ _ | .unassigned02To03 _ _ _ | .unassigned04To07 _ _ _ | .unassigned87 _ _ => true
  | .unassignedC8ToCF _ _ _ | .unassignedD0ToDF _ _ _ | .unassignedE0ToFF _ _ _ => true
  | _ => false

/-- JMP, JZ and JNZ: the instructions that can set `active` (R33). -/
def Instr.isJump : Instr → Bool
  | .jmpDv _ _ | .jmpDr _ _ | .jmpRv _ _ | .jmpRr _ _ => true
  | .jzDrv _ _ _ | .jzDrr _ _ _ | .jzRrv _ _ _ | .jzRrr _ _ _ => true
  | .jnzDrv _ _ _ | .jnzDrr _ _ _ | .jnzRrv _ _ _ | .jnzRrr _ _ _ => true
  | _ => false

/-- SAVE and LOAD: the only instructions that touch memory (R44). -/
def Instr.touchesMemory : Instr → Bool
  | .saveDvv _ _ _ | .saveDvr _ _ _ | .saveDrv _ _ _ | .saveDrr _ _ _ => true
  | .saveRvv _ _ _ | .saveRvr _ _ _ | .saveRrv _ _ _ | .saveRrr _ _ _ => true
  | .loadDvr _ _ _ | .loadDrr _ _ _ | .loadRvr _ _ _ | .loadRrr _ _ _ => true
  | _ => false

/-- The register an instruction writes, if it writes one (R25): `x[op2]` of LOAD, `x[op1]` of SET, `x[0]` of the ALU
and compare instructions, given as the operand byte that names it. -/
def Instr.destination : Instr → Option Byte
  | .loadDvr _ _ r | .loadDrr _ _ r | .loadRvr _ _ r | .loadRrr _ _ r => some r
  | .setRv r _ | .setRr r _ => some r
  | .addRv _ _ | .addRr _ _ | .subRv _ _ | .subRr _ _ | .subVr _ _ | .orRv _ _ | .orRr _ _ => some 0
  | .xorRv _ _ | .xorRr _ _ | .norRv _ _ | .norRr _ _ | .andRv _ _ | .andRr _ _ => some 0
  | .grtRv _ _ | .grtRr _ _ | .lstRv _ _ | .lstRr _ _ | .greqtRv _ _ | .greqtRr _ _ => some 0
  | .lseqtRv _ _ | .lseqtRr _ _ | .eqlRv _ _ | .eqlRr _ _ | .neqlRv _ _ | .neqlRr _ _ => some 0
  | _ => none

end Sys2Proof

namespace Sys2Proof.Machine

/-- The bank and the index of the cell an instruction stores to, by the operand functions its meaning uses; `none` for
an instruction that stores nothing (R96). -/
def storeTarget (i : Instr) (s : State) : Option (Checked (Byte × Byte)) :=
  match i with
  | .saveDvv d idx _ | .saveDvr d idx _ => some ((bankOfLiteralSel s d).both (literal idx))
  | .saveDrv d ri _ | .saveDrr d ri _ => some ((bankOfLiteralSel s d).both (source s ri))
  | .saveRvv rd idx _ | .saveRvr rd idx _ => some ((bankOfHeldSel s rd).both (literal idx))
  | .saveRrv rd ri _ | .saveRrr rd ri _ => some ((bankOfHeldSel s rd).both (source s ri))
  | _ => none

/-- The value an instruction stores, by the operand functions its meaning uses; `none` for an instruction that stores
nothing (R96). -/
def storedByte (i : Instr) (s : State) : Option (Checked Byte) :=
  match i with
  | .saveDvv _ _ v | .saveDrv _ _ v | .saveRvv _ _ v | .saveRrv _ _ v => some (literal v)
  | .saveDvr _ _ r | .saveDrr _ _ r | .saveRvr _ _ r | .saveRrr _ _ r => some (source s r)
  | _ => none

/-- The bank and the index of the cell an instruction loads from, by the operand functions its meaning uses; `none` for
an instruction that loads nothing (R97). -/
def loadSource (i : Instr) (s : State) : Option (Checked (Byte × Byte)) :=
  match i with
  | .loadDvr d idx _ => some ((bankOfLiteralSel s d).both (literal idx))
  | .loadDrr d ri _ => some ((bankOfLiteralSel s d).both (source s ri))
  | .loadRvr rd idx _ => some ((bankOfHeldSel s rd).both (literal idx))
  | .loadRrr rd ri _ => some ((bankOfHeldSel s rd).both (source s ri))
  | _ => none

/-! ## What a fault of an instruction can be about -/

/-- The disc selector an instruction resolves: its packed literal, the contents of its packed register, operand byte
`op1` of JMP DV and DR, or the contents of register `op1` of JMP RV and RR, if there is such a register (R86, R153 to
R156). `none` for an instruction that resolves no selector. -/
def resolvedSelector (i : Instr) (s : State) : Option Byte :=
  match i with
  | .saveDvv d _ _ | .saveDvr d _ _ | .saveDrv d _ _ | .saveDrr d _ _ => some (d.setWidth 8)
  | .loadDvr d _ _ | .loadDrr d _ _ => some (d.setWidth 8)
  | .jzDrv d _ _ | .jzDrr d _ _ | .jnzDrv d _ _ | .jnzDrr d _ _ => some (d.setWidth 8)
  | .saveRvv rd _ _ | .saveRvr rd _ _ | .saveRrv rd _ _ | .saveRrr rd _ _ => some (readX s (selIndex rd))
  | .loadRvr rd _ _ | .loadRrr rd _ _ => some (readX s (selIndex rd))
  | .jzRrv rd _ _ | .jzRrr rd _ _ | .jnzRrv rd _ _ | .jnzRrr rd _ _ => some (readX s (selIndex rd))
  | .jmpDv d _ | .jmpDr d _ => some d
  | .jmpRv rd _ | .jmpRr rd _ => s.x[rd.toNat]?
  | _ => none

/-- `i` is an arithmetic or logic instruction of operation `op`, with the first operand `a` and the second `b` (R68,
R112). -/
def AluOperands (i : Instr) (s : State) (op : AluOp) (a b : Byte) : Prop :=
  match i with
  | .addRv r v => op = .add ∧ Holds s r a ∧ v = b
  | .addRr r r2 => op = .add ∧ Holds s r a ∧ Holds s r2 b
  | .subRv r v => op = .sub ∧ Holds s r a ∧ v = b
  | .subRr r r2 => op = .sub ∧ Holds s r a ∧ Holds s r2 b
  | .subVr v r => op = .sub ∧ v = a ∧ Holds s r b
  | .orRv r v => op = .or ∧ Holds s r a ∧ v = b
  | .orRr r r2 => op = .or ∧ Holds s r a ∧ Holds s r2 b
  | .xorRv r v => op = .xor ∧ Holds s r a ∧ v = b
  | .xorRr r r2 => op = .xor ∧ Holds s r a ∧ Holds s r2 b
  | .norRv r v => op = .nor ∧ Holds s r a ∧ v = b
  | .norRr r r2 => op = .nor ∧ Holds s r a ∧ Holds s r2 b
  | .andRv r v => op = .and ∧ Holds s r a ∧ v = b
  | .andRr r r2 => op = .and ∧ Holds s r a ∧ Holds s r2 b
  | _ => False

/-- `i` is a comparison of relation `rel`, with the first operand `a` and the second `b` (R68, R128). -/
def CmpOperands (i : Instr) (s : State) (rel : CmpRel) (a b : Byte) : Prop :=
  match i with
  | .grtRv r v => rel = .grt ∧ Holds s r a ∧ v = b
  | .grtRr r r2 => rel = .grt ∧ Holds s r a ∧ Holds s r2 b
  | .lstRv r v => rel = .lst ∧ Holds s r a ∧ v = b
  | .lstRr r r2 => rel = .lst ∧ Holds s r a ∧ Holds s r2 b
  | .greqtRv r v => rel = .greqt ∧ Holds s r a ∧ v = b
  | .greqtRr r r2 => rel = .greqt ∧ Holds s r a ∧ Holds s r2 b
  | .lseqtRv r v => rel = .lseqt ∧ Holds s r a ∧ v = b
  | .lseqtRr r r2 => rel = .lseqt ∧ Holds s r a ∧ Holds s r2 b
  | .eqlRv r v => rel = .eql ∧ Holds s r a ∧ v = b
  | .eqlRr r r2 => rel = .eql ∧ Holds s r a ∧ Holds s r2 b
  | .neqlRv r v => rel = .neql ∧ Holds s r a ∧ v = b
  | .neqlRr r r2 => rel = .neql ∧ Holds s r a ∧ Holds s r2 b
  | _ => False

/-- `i` falls through in `s` if nothing else stops it: every instruction that is no jump and no halt, a JZ whose
condition register is not zero and a JNZ whose condition register is zero (R87, R142). -/
def FallsThrough (i : Instr) (s : State) : Prop :=
  match i with
  | .jzDrv _ c _ | .jzDrr _ c _ | .jzRrv _ c _ | .jzRrr _ c _ => ∃ v, Holds s c v ∧ v ≠ 0
  | .jnzDrv _ c _ | .jnzDrr _ c _ | .jnzRrv _ c _ | .jnzRrr _ c _ => Holds s c 0
  | _ => i.isJump = false ∧ i.isHalt = false

/-! ## The invariant -/

/-- The record describes a fault that R159 to R174 can raise: the info is out of the range its kind checks, and `op0`
is there for every fault but a fetch fault and a malformed image (R160). -/
def FaultRecord.genuine (p : Params) (f : FaultRecord) : Bool :=
  match f.cause with
  | .registerOutOfRange i => decide (8 ≤ i.toNat) && f.op0.isSome
  | .bankOutOfRange d => decide (p.selectorMax.toNat < d.toNat) && f.op0.isSome
  | .arithmeticOverflow .add a b => decide (255 < a.toNat + b.toNat) && f.op0.isSome
  | .arithmeticOverflow .sub a b => decide (a.toNat < b.toNat) && f.op0.isSome
  | .arithmeticOverflow _ _ _ => false
  | .malformedCount n => decide (8 < n) && decide (f.pc = 0) && decide (f.active = 0) && f.op0.isNone
  | .malformedBank b n =>
    decide (b < 8) && decide (n ≠ 256) && decide (f.pc = 0) && decide (f.active = 0) && f.op0.isNone
  | .pcOutOfBank q =>
    decide (q = f.pc) && decide (p.pcEdge = .fault)
      && ((decide (q.toNat = 253) && f.op0.isSome) || (decide (253 < q.toNat) && f.op0.isNone))

/-- The status part of the invariant: while no fault has ended the run `active` is 0..7 (R33); after one, the record is
genuine and names an existing bank. -/
def State.statusWf (s : State) : Bool :=
  match s.status with
  | .running => decide (s.active.toNat < 8)
  | .halted => decide (s.active.toNat < 8)
  | .faulted f => f.genuine s.params && decide (f.active.toNat < 8)

/-- The invariant of the machine: memory in canonical form within the 2048 cells of R42, `ALU_CMP_OPCODE_MAP` a
bijection (D2), and a legal status. -/
def State.Inv (s : State) : Bool := s.banks.wf && s.params.wf && s.statusWf

end Sys2Proof.Machine
end

