-- ==== Sys2Proof/Certificates/Slice0/Obligations.lean ====
section
/-! DEFINITION. The statements for the provers. A state after a fault is never described beyond its status and its parameters:
the rest is unspecified (spec/93_implementation_defined.md I3). -/

open Sys2Proof Sys2Proof.Machine

/-- O1 (R27; R32; R34; R36). State.reset has every register 0, pc 0, active 0 and status Running, and every cell of the
eight banks reads 0 (no image). -/
def Obligations.ResetZeroesTheMachine : Prop :=
  (∀ i : Fin 8, readX State.reset i = 0) ∧ State.reset.pc = 0 ∧ State.reset.active = 0
    ∧ State.reset.status = .running ∧ ∀ b a : Byte, b.toNat < 8 → memRead State.reset b a = 0

/-- O2 (70_reset_and_hazards.md section 1; 20_memory.md section 4; 10_state.md section 7). For at most 8 images of
exactly 256 bytes, reset gives a running machine with pc 0, active 0, every register 0, physical bank i holding
image i byte for byte, and every other bank all 0, for every value of the parameters. Rests on the spec decision D15
(the core checks its input) only in that a well-shaped input raises no fault. -/
def Obligations.ResetLoadsTheImages : Prop :=
  ∀ (p : Params) (n : Nat) (image : List (List Byte)), image.length ≤ 8 → (∀ b ∈ image, b.length = 256) →
    let s := State.resetWith p n image
    (∀ (b a : Byte) (bank : List Byte), image[b.toNat]? = some bank → some (memRead s b a) = bank[a.toNat]?)
      ∧ (∀ b a : Byte, image.length ≤ b.toNat → b.toNat < 8 → memRead s b a = 0)
      ∧ (∀ i : Fin 8, readX s i = 0) ∧ s.pc = 0 ∧ s.active = 0 ∧ s.status = .running

/-- O3 (70_reset_and_hazards.md section 1; 60_exceptions.md section 1; 92_eei_decisions.md D15; 92_eei_decisions.md D7).
More than 8 images give Faulted(MalformedImage(count n)); at most 8 images of which image i is the first whose
length is not 256 give Faulted(MalformedImage(bank i, length)). The record has pc 0, active 0 and no op0. Rests on
the spec decisions D15 (where and in which order the check runs) and D7 (the record). -/
def Obligations.MalformedImageFaultsAtReset : Prop :=
  ∀ (p : Params) (n : Nat) (image : List (List Byte)),
    (8 < image.length →
      (State.resetWith p n image).status = .faulted ⟨.malformedCount image.length, 0, 0, none⟩)
    ∧ (∀ (i : Nat) (bank : List Byte), image.length ≤ 8 → image[i]? = some bank → bank.length ≠ 256 →
        (∀ (j : Nat) (b : List Byte), j < i → image[j]? = some b → b.length = 256) →
        (State.resetWith p n image).status = .faulted ⟨.malformedBank i bank.length, 0, 0, none⟩)

/-- O4 (40_engine_cycle.md section 2; 92_eei_decisions.md D11). If the run loop with fuel k answers a state that is not
Running, then with any more fuel it answers the same state, so its result (success or failure) does not depend on
the bound. The fuel bound of the host is the spec decision D11. -/
def Obligations.FinishedRunIgnoresMoreFuel : Prop :=
  ∀ (k j : Nat) (s t : State), runLoop k s = .next t → t.status ≠ .running → runLoop (k + j) s = .next t

/-- O5 (40_engine_cycle.md section 2; 92_eei_decisions.md D11). If k engine steps in a row answer a state t, the run
loop with fuel k answers t; and a run loop that is still Running after fuel k (OutOfFuel) has made exactly k engine
steps. The fuel bound of the host is the spec decision D11. -/
def Obligations.RunLoopAgreesWithSteps : Prop :=
  ∀ (k : Nat) (s t : State),
    (Host.Core.run core k s = .next t → runLoop k s = .next t)
    ∧ (runLoop k s = .next t → t.status = .running → Host.Core.run core k s = .next t)

/-- O6 (40_engine_cycle.md section 2; 92_eei_decisions.md D11). The result of the state a run ends in is success exactly
when it is Halted, failure(f) exactly when it is Faulted(f), and OutOfFuel exactly when it is still Running.
OutOfFuel is the spec decision D11. -/
def Obligations.RunResultTellsTheStatus : Prop :=
  ∀ (s : State) (f : FaultRecord), (resultOf s = .success ↔ s.status = .halted)
    ∧ (resultOf s = .failure f ↔ s.status = .faulted f) ∧ (resultOf s = .outOfFuel ↔ s.status = .running)

/-- O7 (40_engine_cycle.md section 1; 30_encoding.md section 3; 92_eei_decisions.md D3). In a running state with an
existing active bank, where the word does not pass the end of the bank (pc at most 253) or PC_EDGE_POLICY is wrap,
the step is exec of the instruction decoded from the bytes at pc, pc + 1 and pc + 2 (modulo 256) of the active bank;
nothing is added around exec. The wrap offsets are the spec parameter of D3. -/
def Obligations.StepRunsTheFetchedInstruction : Prop :=
  ∀ (s : State) (op0 op1 op2 : Byte), s.status = .running → s.active.toNat < 8 →
    (s.pc.toNat ≤ 253 ∨ s.params.pcEdge = .wrap) →
    s.banks.read (256 * s.active.toNat + s.pc.toNat) = op0 →
    s.banks.read (256 * s.active.toNat + (s.pc.toNat + 1) % 256) = op1 →
    s.banks.read (256 * s.active.toNat + (s.pc.toNat + 2) % 256) = op2 →
    step s = exec (decodeWord s.params op0 op1 op2) s

/-- O8 (40_engine_cycle.md section 1; 92_eei_decisions.md D3). In a running state with pc above 253 and PC_EDGE_POLICY =
fault, the step ends in Faulted(PcOutOfBank(pc)) with no op0, whatever the bytes there are. Rests on the spec
decision D3. -/
def Obligations.FetchPastTheBankFaults : Prop :=
  ∀ s : State, s.status = .running → s.params.pcEdge = .fault → 253 < s.pc.toNat →
    FaultsWith (step s) s none (.pcOutOfBank s.pc)

/-- O9 (40_engine_cycle.md section 1; 10_state.md section 4). In every state that meets the invariant, step answers a
next state exactly when the status is Running; in Halted and in Faulted(f) it answers the stop that names that
status. That no step exists outside Running is the rule R82; that every running state that meets the invariant has
one, and the two named stops, are the choices of the model (log entries 8 and 11). -/
def Obligations.StepsExistExactlyWhileRunning : Prop :=
  ∀ s : State, s.Inv = true →
    ((∃ t, step s = .next t) ↔ s.status = .running)
      ∧ (s.status = .halted → step s = .fault .noStepHalted)
      ∧ (∀ f, s.status = .faulted f → step s = .fault (.noStepFaulted f))

/-- O10 (30_encoding.md section 3; 60_exceptions.md section 1). For every instruction and every state whose active bank
is 0..7, exec answers a next state: an effect or a fault that is taken; never a stop of the model and never a
refusal. -/
def Obligations.ExecNeverStops : Prop :=
  ∀ (i : Instr) (s : State), s.active.toNat < 8 → ∃ t, exec i s = .next t

/-- O11 (10_state.md section 7). State.reset has its memory in canonical form, a bijective ALU_CMP_OPCODE_MAP and a
legal status and active bank. -/
def Obligations.ResetMeetsTheInvariant : Prop :=
  State.reset.Inv = true

/-- O12 (70_reset_and_hazards.md section 1). For every bijective opcode map, every value of the other parameters and
every core input, the state after reset meets the invariant. -/
def Obligations.LoadedResetMeetsTheInvariant : Prop :=
  ∀ (p : Params) (n : Nat) (image : List (List Byte)), p.wf = true → (State.resetWith p n image).Inv = true

/-- O13 (10_state.md section 4; 20_memory.md section 1; 60_exceptions.md section 1; 92_eei_decisions.md D3;
92_eei_decisions.md D7; 92_eei_decisions.md D14). From every state that meets the invariant, a step that answers a
next state gives a state that meets it: the memory is in canonical form within the 2048 cells, the opcode map is a
bijection, active is 0..7 unless a fault has ended the run, and after a fault the record names an existing bank and
an info that really is out of the range its kind checks, with op0 present exactly when the fault is not a fetch
fault. The record is the spec decision D7, the edge and the largest selector are the parameters of D3 and D14, and
the invariant itself is the choice of the model (log entries 4, 9 and 11). -/
def Obligations.StepKeepsTheInvariant : Prop :=
  ∀ s t : State, s.Inv = true → step s = .next t → t.Inv = true

/-- O14 (30_encoding.md section 3; 30_encoding.md section 4; 95_test_vectors.md section 1; 92_eei_decisions.md D2). For
every instruction with every operand at every value its encoding admits, and every bijection ALU_CMP_OPCODE_MAP, the
decoder reads the encoded word as that instruction. The map is the spec parameter of D2. -/
def Obligations.DecodeOfEncodeIsTheInstruction : Prop :=
  ∀ (p : Params) (i : Instr), p.wf = true →
    decodeWord p (encode p i).1 (encode p i).2.1 (encode p i).2.2 = i

/-- O15 (30_encoding.md section 3; 92_eei_decisions.md D2). For every three bytes and every bijection
ALU_CMP_OPCODE_MAP, encoding the decoded instruction gives the same three bytes, so op0 alone chooses the
instruction and the operand bytes pass through untouched. The map is the spec parameter of D2. -/
def Obligations.EncodeOfDecodeIsTheWord : Prop :=
  ∀ (p : Params) (op0 op1 op2 : Byte), p.wf = true →
    encode p (decodeWord p op0 op1 op2) = (op0, op1, op2)

/-- O16 (95_test_vectors.md section 2; 30_encoding.md section 3; 92_eei_decisions.md D2; 92_eei_decisions.md D9). Under
the default parameters, one word of each family decodes as the spec says: SAVE, LOAD, ADD, SUB VR, GRT, SET, JMP,
JZ, JNZ (0xC7), END and an unassigned byte. The ADD, SUB and GRT bytes are the spec decision D2. Which operand byte
is which operand is D9. -/
def Obligations.SampleWordsDecodeAsTheSpecSays : Prop :=
  decodeWord Params.default 0x08 5 42 = .saveDvv 0 5 42
    ∧ decodeWord Params.default 0x61 2 3 = .loadRrr 1 2 3
    ∧ decodeWord Params.default 0x68 1 3 = .addRv 1 3
    ∧ decodeWord Params.default 0x6C 10 2 = .subVr 10 2
    ∧ decodeWord Params.default 0x75 1 200 = .grtRv 1 200
    ∧ decodeWord Params.default 0x81 1 9 = .setRv 1 9
    ∧ decodeWord Params.default 0x86 1 8 = .jmpRr 1 8
    ∧ decodeWord Params.default 0x88 0 15 = .jzDrv 0 0 15
    ∧ decodeWord Params.default 0xC7 7 7 = .jnzRrr 7 7 7
    ∧ decodeWord Params.default 0 0x12 0x34 = .endZ 0x12 0x34
    ∧ decodeWord Params.default 0xFF 0x12 0x34 = .unassignedE0ToFF 31 0x12 0x34

/-- O17 (30_encoding.md section 3; 90_conflicts.md C2). Whatever the operand bytes and the parameters, an opcode byte
decodes to END or an unassigned opcode exactly when it is 0x00, 0x01..0x07, 0x87 or 0xC8..0xFF; so 65 of the 256
values halt the machine and 191 are assigned instructions; and 0xC7 is JNZ RRR with sel 7. -/
def Obligations.UnassignedOpcodesDecodeAsEnd : Prop :=
  (∀ (p : Params) (op0 op1 op2 : Byte), (decodeWord p op0 op1 op2).isHalt = true ↔
      (op0.toNat ≤ 0x07 ∨ op0.toNat = 0x87 ∨ 0xC8 ≤ op0.toNat))
    ∧ (∀ (p : Params) (op1 op2 : Byte),
        ((List.range 256).countP fun n => (decodeWord p (BitVec.ofNat 8 n) op1 op2).isHalt) = 65
        ∧ ((List.range 256).countP fun n => !(decodeWord p (BitVec.ofNat 8 n) op1 op2).isHalt) = 191
        ∧ decodeWord p 0xC7 op1 op2 = .jnzRrr 7 op1 op2)

/-- O18 (30_encoding.md section 3). For every selector the eight SAVE, four LOAD, four JZ and four JNZ ranges decode to
their mode with op0[2:0] as the selector, and 0x81..0x86 to SET RV, SET RR, JMP DV, DR, RV, RR, for every operand
byte and every value of the parameters; each packed byte is base + sel. -/
def Obligations.AssignedRangesDecodeAsTheTable : Prop :=
  ∀ (p : Params) (sel : Sel) (op1 op2 : Byte),
    decodeWord p (0x08 + sel.setWidth 8) op1 op2 = .saveDvv sel op1 op2
    ∧ decodeWord p (0x10 + sel.setWidth 8) op1 op2 = .saveDvr sel op1 op2
    ∧ decodeWord p (0x18 + sel.setWidth 8) op1 op2 = .saveDrv sel op1 op2
    ∧ decodeWord p (0x20 + sel.setWidth 8) op1 op2 = .saveDrr sel op1 op2
    ∧ decodeWord p (0x28 + sel.setWidth 8) op1 op2 = .saveRvv sel op1 op2
    ∧ decodeWord p (0x30 + sel.setWidth 8) op1 op2 = .saveRvr sel op1 op2
    ∧ decodeWord p (0x38 + sel.setWidth 8) op1 op2 = .saveRrv sel op1 op2
    ∧ decodeWord p (0x40 + sel.setWidth 8) op1 op2 = .saveRrr sel op1 op2
    ∧ decodeWord p (0x48 + sel.setWidth 8) op1 op2 = .loadDvr sel op1 op2
    ∧ decodeWord p (0x50 + sel.setWidth 8) op1 op2 = .loadDrr sel op1 op2
    ∧ decodeWord p (0x58 + sel.setWidth 8) op1 op2 = .loadRvr sel op1 op2
    ∧ decodeWord p (0x60 + sel.setWidth 8) op1 op2 = .loadRrr sel op1 op2
    ∧ decodeWord p 0x81 op1 op2 = .setRv op1 op2 ∧ decodeWord p 0x82 op1 op2 = .setRr op1 op2
    ∧ decodeWord p 0x83 op1 op2 = .jmpDv op1 op2 ∧ decodeWord p 0x84 op1 op2 = .jmpDr op1 op2
    ∧ decodeWord p 0x85 op1 op2 = .jmpRv op1 op2 ∧ decodeWord p 0x86 op1 op2 = .jmpRr op1 op2
    ∧ decodeWord p (0x88 + sel.setWidth 8) op1 op2 = .jzDrv sel op1 op2
    ∧ decodeWord p (0x90 + sel.setWidth 8) op1 op2 = .jzDrr sel op1 op2
    ∧ decodeWord p (0x98 + sel.setWidth 8) op1 op2 = .jzRrv sel op1 op2
    ∧ decodeWord p (0xA0 + sel.setWidth 8) op1 op2 = .jzRrr sel op1 op2
    ∧ decodeWord p (0xA8 + sel.setWidth 8) op1 op2 = .jnzDrv sel op1 op2
    ∧ decodeWord p (0xB0 + sel.setWidth 8) op1 op2 = .jnzDrr sel op1 op2
    ∧ decodeWord p (0xB8 + sel.setWidth 8) op1 op2 = .jnzRrv sel op1 op2
    ∧ decodeWord p (0xC0 + sel.setWidth 8) op1 op2 = .jnzRrr sel op1 op2

/-- O19 (20_memory.md section 2; 92_eei_decisions.md D14). For every selector and active bank and both values of
SELECTOR_MAX: selector 0 resolves to the active bank, a selector d from 1 to SELECTOR_MAX to physical bank d - 1,
and a larger one raises BankOutOfRange(d). SELECTOR_MAX is the spec parameter of D14. -/
def Obligations.ResolveFollowsTheSelectorRule : Prop :=
  ∀ (p : Params) (d active : Byte),
    (d = 0 → resolve p d active = .ok active)
    ∧ (∀ b : Byte, d.toNat = b.toNat + 1 → d.toNat ≤ p.selectorMax.toNat → resolve p d active = .ok b)
    ∧ (p.selectorMax.toNat < d.toNat → resolve p d active = .bad (.bankOutOfRange d) [])

/-- O20 (20_memory.md section 2; 92_eei_decisions.md D14). For every packed literal selector and both values of
SELECTOR_MAX the bank resolves; it is the active bank for 0 and one of the banks 0..6 otherwise. SELECTOR_MAX is the
spec parameter of D14. -/
def Obligations.PackedLiteralsReachBanksZeroToSix : Prop :=
  ∀ (s : State) (d : Sel), ∃ b : Byte, bankOfLiteralSel s d = .ok b
    ∧ ((d = 0 ∧ b = s.active) ∨ (d ≠ 0 ∧ b.toNat + 1 = d.toNat ∧ b.toNat ≤ 6))

/-- O21 (R85). A register operand taken from an operand byte i below 8 is read as x[i] (checkReg answers the index i
itself), and for i of 8 or more both raise RegisterOutOfRange(i); a packed selector reads x[sel] directly, with no
check. -/
def Obligations.RegisterIndicesAreChecked : Prop :=
  ∀ (s : State) (i : Byte) (sel : Sel),
    (∀ h : i.toNat < 8, reg s i = .ok s.x[i.toNat] ∧ checkReg i = .ok ⟨i.toNat, h⟩)
    ∧ (8 ≤ i.toNat → reg s i = .bad (.registerOutOfRange i) [] ∧ checkReg i = .bad (.registerOutOfRange i) [])
    ∧ some (readX s (selIndex sel)) = s.x[sel.toNat]?

/-- O22 (42_set_alu.md section 2; 93_implementation_defined.md section 2). ADD gives the exact sum when it is at most
255 and raises ArithmeticOverflow(ADD, a, b) otherwise; SUB gives the exact difference when a is at least b and
raises ArithmeticOverflow(SUB, a, b) otherwise; each bit of OR, XOR, AND and NOR is that operation on the bits of a
and b. The meaning of the four logic mnemonics is from general knowledge (G1, log entry 14). -/
def Obligations.AluComputesExactlyOrFaults : Prop :=
  ∀ a b r : Byte,
    (r.toNat = a.toNat + b.toNat → alu .add a b = .ok r)
    ∧ (255 < a.toNat + b.toNat → alu .add a b = .bad (.arithmeticOverflow .add a b) [])
    ∧ (a.toNat = r.toNat + b.toNat → alu .sub a b = .ok r)
    ∧ (a.toNat < b.toNat → alu .sub a b = .bad (.arithmeticOverflow .sub a b) [])
    ∧ ((∀ k : Fin 8, r[k] = (a[k] || b[k])) → alu .or a b = .ok r)
    ∧ ((∀ k : Fin 8, r[k] = (a[k] ^^ b[k])) → alu .xor a b = .ok r)
    ∧ ((∀ k : Fin 8, r[k] = (a[k] && b[k])) → alu .and a b = .ok r)
    ∧ ((∀ k : Fin 8, r[k] = !(a[k] || b[k])) → alu .nor a b = .ok r)

/-- O23 (43_compare.md section 1; 93_implementation_defined.md section 2). For every two bytes, cmp of GRT, LST, GREQT,
LSEQT, EQL and NEQL is 1 if the first is greater, less, at least, at most, equal to, different from the second as
unsigned numbers, and 0 otherwise. The relation each mnemonic names is from general knowledge (G2, log entry 14). -/
def Obligations.CompareIsOneOrZeroUnsigned : Prop :=
  ∀ a b : Byte,
    cmpResult .grt a b = (if b.toNat < a.toNat then 1 else 0) ∧ cmpResult .lst a b = (if a.toNat < b.toNat then 1 else 0)
    ∧ cmpResult .greqt a b = (if b.toNat ≤ a.toNat then 1 else 0) ∧ cmpResult .lseqt a b = (if a.toNat ≤ b.toNat then 1 else 0)
    ∧ cmpResult .eql a b = (if a.toNat = b.toNat then 1 else 0) ∧ cmpResult .neql a b = (if a.toNat = b.toNat then 0 else 1)

/-- O24 (41_save_load.md section 2; 92_eei_decisions.md D9). Where the selector names an existing bank b, every register
operand names a register, and the fall-through goes to n, each SAVE mode answers the state in which the cell (b,
index) holds the value and pc is n, with every register, active, status and the other fields as before. Operand
roles are the spec decision D9 for the modes the source does not spell out. -/
def Obligations.SaveStoresOneByte : Prop :=
  ∀ (s : State) (sel : Sel) (op1 op2 d b a v n : Byte), b.toNat < 8 → FallsTo s n →
    (SelectsBank s (sel.setWidth 8) b →
        exec (.saveDvv sel op1 op2) s = .next { s with banks := s.banks.write (cellAddr b op1) op2, pc := n })
    ∧ (SelectsBank s (sel.setWidth 8) b → Holds s op2 v →
        exec (.saveDvr sel op1 op2) s = .next { s with banks := s.banks.write (cellAddr b op1) v, pc := n })
    ∧ (SelectsBank s (sel.setWidth 8) b → Holds s op1 a →
        exec (.saveDrv sel op1 op2) s = .next { s with banks := s.banks.write (cellAddr b a) op2, pc := n })
    ∧ (SelectsBank s (sel.setWidth 8) b → Holds s op1 a → Holds s op2 v →
        exec (.saveDrr sel op1 op2) s = .next { s with banks := s.banks.write (cellAddr b a) v, pc := n })
    ∧ (HoldsSel s sel d → SelectsBank s d b →
        exec (.saveRvv sel op1 op2) s = .next { s with banks := s.banks.write (cellAddr b op1) op2, pc := n })
    ∧ (HoldsSel s sel d → SelectsBank s d b → Holds s op2 v →
        exec (.saveRvr sel op1 op2) s = .next { s with banks := s.banks.write (cellAddr b op1) v, pc := n })
    ∧ (HoldsSel s sel d → SelectsBank s d b → Holds s op1 a →
        exec (.saveRrv sel op1 op2) s = .next { s with banks := s.banks.write (cellAddr b a) op2, pc := n })
    ∧ (HoldsSel s sel d → SelectsBank s d b → Holds s op1 a → Holds s op2 v →
        exec (.saveRrr sel op1 op2) s = .next { s with banks := s.banks.write (cellAddr b a) v, pc := n })

/-- O25 (20_memory.md section 3; 40_engine_cycle.md section 1; 20_memory.md section 1; 41_save_load.md section 2;
92_eei_decisions.md D9). For every instruction that answers a next state that is not a fault, every byte of memory
reads as before, except the one cell (b, a) that a SAVE stores to, computed by the same operand functions as its
meaning; an instruction that is no SAVE has no such cell. Which operand of SAVE is the index is the spec decision D9
for the modes the source does not spell out (log entry 16). -/
def Obligations.MemoryChangesOnlyAtTheStoredCell : Prop :=
  ∀ (i : Instr) (s t : State), exec i s = .next t → t.Safe = true → ∀ k : Nat,
    (∀ b a : Byte, storeTarget i s = some (.ok (b, a)) → k ≠ cellAddr b a) → t.banks.read k = s.banks.read k

/-- O26 (41_save_load.md section 3; 92_eei_decisions.md D9). Where the selector names an existing bank b, the index
register (if any) and op2 name registers and the fall-through goes to n, each LOAD mode answers the state in which
x[op2] is the byte of cell (b, index) unchanged and pc is n; memory, active, status and the other registers are as
before. op2 as the destination is the spec decision D9. -/
def Obligations.LoadMovesTheByteIntoTheRegister : Prop :=
  ∀ (s : State) (sel : Sel) (op1 op2 d b a n : Byte) (r : Fin 8), b.toNat < 8 → op2.toNat = r → FallsTo s n →
    (SelectsBank s (sel.setWidth 8) b →
        exec (.loadDvr sel op1 op2) s = .next { s with x := s.x.set r (s.banks.read (cellAddr b op1)), pc := n })
    ∧ (SelectsBank s (sel.setWidth 8) b → Holds s op1 a →
        exec (.loadDrr sel op1 op2) s = .next { s with x := s.x.set r (s.banks.read (cellAddr b a)), pc := n })
    ∧ (HoldsSel s sel d → SelectsBank s d b →
        exec (.loadRvr sel op1 op2) s = .next { s with x := s.x.set r (s.banks.read (cellAddr b op1)), pc := n })
    ∧ (HoldsSel s sel d → SelectsBank s d b → Holds s op1 a →
        exec (.loadRrr sel op1 op2) s = .next { s with x := s.x.set r (s.banks.read (cellAddr b a)), pc := n })

/-- O27 (42_set_alu.md section 1; 92_eei_decisions.md D9). Where op1 names register r and the fall-through goes to n,
SET RV answers the state with x[r] = op2 and pc = n, and SET RR, where op2 names a register holding v, the state
with x[r] = v and pc = n; nothing else changes. The first operand of RR as the destination is the spec decision D9. -/
def Obligations.SetWritesTheNamedRegister : Prop :=
  ∀ (s : State) (op1 op2 v n : Byte) (r : Fin 8), op1.toNat = r → FallsTo s n →
    exec (.setRv op1 op2) s = .next { s with x := s.x.set r op2, pc := n }
    ∧ (Holds s op2 v → exec (.setRr op1 op2) s = .next { s with x := s.x.set r v, pc := n })

/-- O28 (42_set_alu.md section 3; 42_set_alu.md section 4; 92_eei_decisions.md D9). Where the register operands name
registers, the exact result fits a byte c and the fall-through goes to n, each form answers the state with x[0] = c
and pc = n and nothing else changed: ADD RV and RR with the sum, SUB RV and RR with first minus second, SUB VR with
literal minus register (the order is the spec decision D9). -/
def Obligations.AddAndSubAreExact : Prop :=
  ∀ (s : State) (op1 op2 a b c n : Byte), FallsTo s n →
    let after : StepOutcome := .next { s with x := s.x.set 0 c, pc := n }
    (Holds s op1 a → c.toNat = a.toNat + op2.toNat → exec (.addRv op1 op2) s = after)
    ∧ (Holds s op1 a → Holds s op2 b → c.toNat = a.toNat + b.toNat → exec (.addRr op1 op2) s = after)
    ∧ (Holds s op1 a → a.toNat = c.toNat + op2.toNat → exec (.subRv op1 op2) s = after)
    ∧ (Holds s op1 a → Holds s op2 b → a.toNat = c.toNat + b.toNat → exec (.subRr op1 op2) s = after)
    ∧ (Holds s op2 b → op1.toNat = c.toNat + b.toNat → exec (.subVr op1 op2) s = after)

/-- O29 (42_set_alu.md section 5; 93_implementation_defined.md section 2). Where the register operands name registers
and the fall-through goes to n, each form answers the state with x[0] the bitwise result on 8 bits and pc = n and
nothing else changed. That the mnemonics name the bitwise operations is from general knowledge (G1, log entry 14). -/
def Obligations.LogicOperationsWriteRegisterZero : Prop :=
  ∀ (s : State) (op1 op2 a b n : Byte), FallsTo s n →
    (Holds s op1 a → exec (.orRv op1 op2) s = .next { s with x := s.x.set 0 (a ||| op2), pc := n })
    ∧ (Holds s op1 a → Holds s op2 b →
        exec (.orRr op1 op2) s = .next { s with x := s.x.set 0 (a ||| b), pc := n })
    ∧ (Holds s op1 a → exec (.xorRv op1 op2) s = .next { s with x := s.x.set 0 (a ^^^ op2), pc := n })
    ∧ (Holds s op1 a → Holds s op2 b →
        exec (.xorRr op1 op2) s = .next { s with x := s.x.set 0 (a ^^^ b), pc := n })
    ∧ (Holds s op1 a → exec (.norRv op1 op2) s = .next { s with x := s.x.set 0 (~~~(a ||| op2)), pc := n })
    ∧ (Holds s op1 a → Holds s op2 b →
        exec (.norRr op1 op2) s = .next { s with x := s.x.set 0 (~~~(a ||| b)), pc := n })
    ∧ (Holds s op1 a → exec (.andRv op1 op2) s = .next { s with x := s.x.set 0 (a &&& op2), pc := n })
    ∧ (Holds s op1 a → Holds s op2 b →
        exec (.andRr op1 op2) s = .next { s with x := s.x.set 0 (a &&& b), pc := n })

/-- O30 (43_compare.md section 1; 93_implementation_defined.md section 2; 92_eei_decisions.md D9). Where the register
operands name registers and the fall-through goes to n, each form answers the state with x[0] = 1 if the unsigned
relation between the first and the second operand holds and 0 if not, and pc = n, nothing else changed. The
relations are from general knowledge (G2, log entry 14), the operand order is the spec decision D9. -/
def Obligations.ComparisonsWriteOneOrZero : Prop :=
  ∀ (s : State) (op1 op2 a b n : Byte), FallsTo s n →
    (Holds s op1 a →
        exec (.grtRv op1 op2) s = .next { s with x := s.x.set 0 (if op2.toNat < a.toNat then 1 else 0), pc := n })
    ∧ (Holds s op1 a → Holds s op2 b →
        exec (.grtRr op1 op2) s = .next { s with x := s.x.set 0 (if b.toNat < a.toNat then 1 else 0), pc := n })
    ∧ (Holds s op1 a →
        exec (.lstRv op1 op2) s = .next { s with x := s.x.set 0 (if a.toNat < op2.toNat then 1 else 0), pc := n })
    ∧ (Holds s op1 a → Holds s op2 b →
        exec (.lstRr op1 op2) s = .next { s with x := s.x.set 0 (if a.toNat < b.toNat then 1 else 0), pc := n })
    ∧ (Holds s op1 a →
        exec (.greqtRv op1 op2) s = .next { s with x := s.x.set 0 (if op2.toNat ≤ a.toNat then 1 else 0), pc := n })
    ∧ (Holds s op1 a → Holds s op2 b →
        exec (.greqtRr op1 op2) s = .next { s with x := s.x.set 0 (if b.toNat ≤ a.toNat then 1 else 0), pc := n })
    ∧ (Holds s op1 a →
        exec (.lseqtRv op1 op2) s = .next { s with x := s.x.set 0 (if a.toNat ≤ op2.toNat then 1 else 0), pc := n })
    ∧ (Holds s op1 a → Holds s op2 b →
        exec (.lseqtRr op1 op2) s = .next { s with x := s.x.set 0 (if a.toNat ≤ b.toNat then 1 else 0), pc := n })
    ∧ (Holds s op1 a →
        exec (.eqlRv op1 op2) s = .next { s with x := s.x.set 0 (if a = op2 then 1 else 0), pc := n })
    ∧ (Holds s op1 a → Holds s op2 b →
        exec (.eqlRr op1 op2) s = .next { s with x := s.x.set 0 (if a = b then 1 else 0), pc := n })
    ∧ (Holds s op1 a →
        exec (.neqlRv op1 op2) s = .next { s with x := s.x.set 0 (if a ≠ op2 then 1 else 0), pc := n })
    ∧ (Holds s op1 a → Holds s op2 b →
        exec (.neqlRr op1 op2) s = .next { s with x := s.x.set 0 (if a ≠ b then 1 else 0), pc := n })

/-- O31 (44_control.md section 2; 44_control.md section 3; 92_eei_decisions.md D9). Where the selector names a bank b
and the register operands name registers, JZ with a zero and JNZ with a non-zero condition register answer the state
with active = b and pc the target, from any pc (no fall-through edge), and nothing else changed. The operand roles
are the spec decision D9. -/
def Obligations.TakenBranchesSetActiveAndPc : Prop :=
  ∀ (s : State) (sel : Sel) (op1 op2 d b c t : Byte),
    (SelectsBank s (sel.setWidth 8) b → Holds s op1 c → c = 0 →
        exec (.jzDrv sel op1 op2) s = .next { s with active := b, pc := op2 })
    ∧ (SelectsBank s (sel.setWidth 8) b → Holds s op1 c → Holds s op2 t → c = 0 →
        exec (.jzDrr sel op1 op2) s = .next { s with active := b, pc := t })
    ∧ (HoldsSel s sel d → SelectsBank s d b → Holds s op1 c → c = 0 →
        exec (.jzRrv sel op1 op2) s = .next { s with active := b, pc := op2 })
    ∧ (HoldsSel s sel d → SelectsBank s d b → Holds s op1 c → Holds s op2 t → c = 0 →
        exec (.jzRrr sel op1 op2) s = .next { s with active := b, pc := t })
    ∧ (SelectsBank s (sel.setWidth 8) b → Holds s op1 c → c ≠ 0 →
        exec (.jnzDrv sel op1 op2) s = .next { s with active := b, pc := op2 })
    ∧ (SelectsBank s (sel.setWidth 8) b → Holds s op1 c → Holds s op2 t → c ≠ 0 →
        exec (.jnzDrr sel op1 op2) s = .next { s with active := b, pc := t })
    ∧ (HoldsSel s sel d → SelectsBank s d b → Holds s op1 c → c ≠ 0 →
        exec (.jnzRrv sel op1 op2) s = .next { s with active := b, pc := op2 })
    ∧ (HoldsSel s sel d → SelectsBank s d b → Holds s op1 c → Holds s op2 t → c ≠ 0 →
        exec (.jnzRrr sel op1 op2) s = .next { s with active := b, pc := t })

/-- O32 (44_control.md section 2; 44_control.md section 3; 92_eei_decisions.md D9). Where the selector names a bank, the
register operands name registers and the fall-through goes to n, JZ with a non-zero and JNZ with a zero condition
register answer the state with pc = n and nothing else changed, active included. The operand roles are the spec
decision D9. -/
def Obligations.UntakenBranchesFallThrough : Prop :=
  ∀ (s : State) (sel : Sel) (op1 op2 d b c t n : Byte), FallsTo s n →
    (SelectsBank s (sel.setWidth 8) b → Holds s op1 c → c ≠ 0 →
        exec (.jzDrv sel op1 op2) s = .next { s with pc := n })
    ∧ (SelectsBank s (sel.setWidth 8) b → Holds s op1 c → Holds s op2 t → c ≠ 0 →
        exec (.jzDrr sel op1 op2) s = .next { s with pc := n })
    ∧ (HoldsSel s sel d → SelectsBank s d b → Holds s op1 c → c ≠ 0 →
        exec (.jzRrv sel op1 op2) s = .next { s with pc := n })
    ∧ (HoldsSel s sel d → SelectsBank s d b → Holds s op1 c → Holds s op2 t → c ≠ 0 →
        exec (.jzRrr sel op1 op2) s = .next { s with pc := n })
    ∧ (SelectsBank s (sel.setWidth 8) b → Holds s op1 c → c = 0 →
        exec (.jnzDrv sel op1 op2) s = .next { s with pc := n })
    ∧ (SelectsBank s (sel.setWidth 8) b → Holds s op1 c → Holds s op2 t → c = 0 →
        exec (.jnzDrr sel op1 op2) s = .next { s with pc := n })
    ∧ (HoldsSel s sel d → SelectsBank s d b → Holds s op1 c → c = 0 →
        exec (.jnzRrv sel op1 op2) s = .next { s with pc := n })
    ∧ (HoldsSel s sel d → SelectsBank s d b → Holds s op1 c → Holds s op2 t → c = 0 →
        exec (.jnzRrr sel op1 op2) s = .next { s with pc := n })

/-- O33 (44_control.md section 2; 44_control.md section 3; 40_engine_cycle.md section 1; 92_eei_decisions.md D3;
92_eei_decisions.md D9). Where the selector names a bank, the register operands name registers, the jump is not
taken and the fall-through would pass the end of the bank under PC_EDGE_POLICY = fault, each form ends in
Faulted(PcOutOfBank(pc)) with the opcode byte of the instruction, under either FAULT_PRIORITY; so the edge is
checked only where the jump is not taken. Rests on the spec parameter of D3, and on the spec decision D9 for which
operand is the condition and which the target (log entry 16). -/
def Obligations.UntakenBranchAtTheEdgeFaults : Prop :=
  ∀ (s : State) (sel : Sel) (op1 op2 d b c t : Byte), FallsOff s →
    (SelectsBank s (sel.setWidth 8) b → Holds s op1 c → c ≠ 0 →
        FaultsWith (exec (.jzDrv sel op1 op2) s) s (some (0x88 + sel.setWidth 8)) (.pcOutOfBank s.pc))
    ∧ (SelectsBank s (sel.setWidth 8) b → Holds s op1 c → Holds s op2 t → c ≠ 0 →
        FaultsWith (exec (.jzDrr sel op1 op2) s) s (some (0x90 + sel.setWidth 8)) (.pcOutOfBank s.pc))
    ∧ (HoldsSel s sel d → SelectsBank s d b → Holds s op1 c → c ≠ 0 →
        FaultsWith (exec (.jzRrv sel op1 op2) s) s (some (0x98 + sel.setWidth 8)) (.pcOutOfBank s.pc))
    ∧ (HoldsSel s sel d → SelectsBank s d b → Holds s op1 c → Holds s op2 t → c ≠ 0 →
        FaultsWith (exec (.jzRrr sel op1 op2) s) s (some (0xA0 + sel.setWidth 8)) (.pcOutOfBank s.pc))
    ∧ (SelectsBank s (sel.setWidth 8) b → Holds s op1 c → c = 0 →
        FaultsWith (exec (.jnzDrv sel op1 op2) s) s (some (0xA8 + sel.setWidth 8)) (.pcOutOfBank s.pc))
    ∧ (SelectsBank s (sel.setWidth 8) b → Holds s op1 c → Holds s op2 t → c = 0 →
        FaultsWith (exec (.jnzDrr sel op1 op2) s) s (some (0xB0 + sel.setWidth 8)) (.pcOutOfBank s.pc))
    ∧ (HoldsSel s sel d → SelectsBank s d b → Holds s op1 c → c = 0 →
        FaultsWith (exec (.jnzRrv sel op1 op2) s) s (some (0xB8 + sel.setWidth 8)) (.pcOutOfBank s.pc))
    ∧ (HoldsSel s sel d → SelectsBank s d b → Holds s op1 c → Holds s op2 t → c = 0 →
        FaultsWith (exec (.jnzRrr sel op1 op2) s) s (some (0xC0 + sel.setWidth 8)) (.pcOutOfBank s.pc))

/-- O34 (44_control.md section 4; 44_control.md section 1; 92_eei_decisions.md D9). Where the selector (a literal byte,
or the contents of the register op1) names a bank b and the target register (if any) exists, each JMP mode answers
the state with active = b and pc = the target, any byte, with no fall-through edge and no alignment requirement, and
nothing else changed. Operand roles and alignment are the spec decisions D9 and D4. -/
def Obligations.JumpsSetActiveAndPc : Prop :=
  ∀ (s : State) (op1 op2 d b t : Byte),
    (SelectsBank s op1 b → exec (.jmpDv op1 op2) s = .next { s with active := b, pc := op2 })
    ∧ (SelectsBank s op1 b → Holds s op2 t → exec (.jmpDr op1 op2) s = .next { s with active := b, pc := t })
    ∧ (Holds s op1 d → SelectsBank s d b → exec (.jmpRv op1 op2) s = .next { s with active := b, pc := op2 })
    ∧ (Holds s op1 d → SelectsBank s d b → Holds s op2 t →
        exec (.jmpRr op1 op2) s = .next { s with active := b, pc := t })

/-- O35 (44_control.md section 5; 92_eei_decisions.md D8). In every state, END and each of the seven unassigned rows,
with any operand bytes, answer the state with status Halted and every other field as it was (pc included), whose
result is success; none raises a fault. That pc is unchanged and that the operand bytes are ignored is the spec
decision D8 (log entry 17). -/
def Obligations.EndAndUnassignedOpcodesHalt : Prop :=
  ∀ (s : State) (op1 op2 : Byte) (u1 : BitVec 1) (u2 : BitVec 2) (u3 : BitVec 3) (u4 : BitVec 4) (u5 : BitVec 5),
    let after : StepOutcome := .next { s with status := .halted }
    exec (.endZ op1 op2) s = after ∧ exec (.unassigned01 op1 op2) s = after
    ∧ exec (.unassigned02To03 u1 op1 op2) s = after ∧ exec (.unassigned04To07 u2 op1 op2) s = after
    ∧ exec (.unassigned87 op1 op2) s = after ∧ exec (.unassignedC8ToCF u3 op1 op2) s = after
    ∧ exec (.unassignedD0ToDF u4 op1 op2) s = after ∧ exec (.unassignedE0ToFF u5 op1 op2) s = after
    ∧ resultOf { s with status := .halted } = .success

/-- O36 (42_set_alu.md section 2; 42_set_alu.md section 3; 42_set_alu.md section 4; 60_exceptions.md section 1;
92_eei_decisions.md D5; 92_eei_decisions.md D9). Where the register operands name registers and the exact result is
above 255 (ADD) or below 0 (SUB), the form ends in Faulted(ArithmeticOverflow) with the operation and its two
operands, and the pc, active and opcode byte of the step. Assumes that the overflow is the only fault that applies
(the fall-through exists) or that FAULT_PRIORITY is order, the spec parameter of D5. The order of the operands of
SUB, with SUB VR as literal minus register, is the spec decision D9 (log entry 16). -/
def Obligations.OverflowFaultsInsteadOfWrapping : Prop :=
  ∀ (s : State) (op1 op2 a b : Byte), (s.params.faultPriority = .order ∨ ∃ n, FallsTo s n) →
    (Holds s op1 a → 255 < a.toNat + op2.toNat →
      FaultsWith (exec (.addRv op1 op2) s) s (some (aluByte s.params .addRv)) (.arithmeticOverflow .add a op2))
    ∧ (Holds s op1 a → Holds s op2 b → 255 < a.toNat + b.toNat →
      FaultsWith (exec (.addRr op1 op2) s) s (some (aluByte s.params .addRr)) (.arithmeticOverflow .add a b))
    ∧ (Holds s op1 a → a.toNat < op2.toNat →
      FaultsWith (exec (.subRv op1 op2) s) s (some (aluByte s.params .subRv)) (.arithmeticOverflow .sub a op2))
    ∧ (Holds s op1 a → Holds s op2 b → a.toNat < b.toNat →
      FaultsWith (exec (.subRr op1 op2) s) s (some (aluByte s.params .subRr)) (.arithmeticOverflow .sub a b))
    ∧ (Holds s op2 b → op1.toNat < b.toNat →
      FaultsWith (exec (.subVr op1 op2) s) s (some (aluByte s.params .subVr)) (.arithmeticOverflow .sub op1 b))

/-- O37 (41_save_load.md section 2; 40_engine_cycle.md section 1; 92_eei_decisions.md D5; 92_eei_decisions.md D9). Under
FAULT_PRIORITY = order, in each SAVE mode: a register-held selector above SELECTOR_MAX ends in BankOutOfRange(d)
whatever the other operands are; with a good selector an index register byte of 8 or more ends in
RegisterOutOfRange(op1); with both good a value register byte of 8 or more ends in RegisterOutOfRange(op2); each
with the pc, active and opcode byte of the step, whatever pc is. The order is the spec parameter of D5. Which
operand is the index and which the value is the spec decision D9 (log entry 16). -/
def Obligations.SaveFaultsInOperandOrder : Prop :=
  ∀ (s : State) (sel : Sel) (op1 op2 d b a : Byte), s.params.faultPriority = .order →
    (NoRegister op2 →
      FaultsWith (exec (.saveDvr sel op1 op2) s) s (some (0x10 + sel.setWidth 8)) (.registerOutOfRange op2))
    ∧ (NoRegister op1 →
      FaultsWith (exec (.saveDrv sel op1 op2) s) s (some (0x18 + sel.setWidth 8)) (.registerOutOfRange op1))
    ∧ (NoRegister op1 →
      FaultsWith (exec (.saveDrr sel op1 op2) s) s (some (0x20 + sel.setWidth 8)) (.registerOutOfRange op1))
    ∧ (Holds s op1 a → NoRegister op2 →
      FaultsWith (exec (.saveDrr sel op1 op2) s) s (some (0x20 + sel.setWidth 8)) (.registerOutOfRange op2))
    ∧ (HoldsSel s sel d → NoBank s d →
      FaultsWith (exec (.saveRvv sel op1 op2) s) s (some (0x28 + sel.setWidth 8)) (.bankOutOfRange d))
    ∧ (HoldsSel s sel d → NoBank s d →
      FaultsWith (exec (.saveRvr sel op1 op2) s) s (some (0x30 + sel.setWidth 8)) (.bankOutOfRange d))
    ∧ (HoldsSel s sel d → SelectsBank s d b → NoRegister op2 →
      FaultsWith (exec (.saveRvr sel op1 op2) s) s (some (0x30 + sel.setWidth 8)) (.registerOutOfRange op2))
    ∧ (HoldsSel s sel d → NoBank s d →
      FaultsWith (exec (.saveRrv sel op1 op2) s) s (some (0x38 + sel.setWidth 8)) (.bankOutOfRange d))
    ∧ (HoldsSel s sel d → SelectsBank s d b → NoRegister op1 →
      FaultsWith (exec (.saveRrv sel op1 op2) s) s (some (0x38 + sel.setWidth 8)) (.registerOutOfRange op1))
    ∧ (HoldsSel s sel d → NoBank s d →
      FaultsWith (exec (.saveRrr sel op1 op2) s) s (some (0x40 + sel.setWidth 8)) (.bankOutOfRange d))
    ∧ (HoldsSel s sel d → SelectsBank s d b → NoRegister op1 →
      FaultsWith (exec (.saveRrr sel op1 op2) s) s (some (0x40 + sel.setWidth 8)) (.registerOutOfRange op1))
    ∧ (HoldsSel s sel d → SelectsBank s d b → Holds s op1 a → NoRegister op2 →
      FaultsWith (exec (.saveRrr sel op1 op2) s) s (some (0x40 + sel.setWidth 8)) (.registerOutOfRange op2))

/-- O38 (41_save_load.md section 3; 40_engine_cycle.md section 1; 92_eei_decisions.md D5; 92_eei_decisions.md D9). Under
FAULT_PRIORITY = order, in each LOAD mode: a register-held selector above SELECTOR_MAX ends in BankOutOfRange(d);
with a good selector an index register byte of 8 or more ends in RegisterOutOfRange(op1); with those good a
destination byte of 8 or more ends in RegisterOutOfRange(op2). The order is the spec parameter of D5. Which operand
is the index and which the destination is the spec decision D9 (log entry 16). -/
def Obligations.LoadFaultsInOperandOrder : Prop :=
  ∀ (s : State) (sel : Sel) (op1 op2 d b a : Byte), s.params.faultPriority = .order →
    (NoRegister op2 →
      FaultsWith (exec (.loadDvr sel op1 op2) s) s (some (0x48 + sel.setWidth 8)) (.registerOutOfRange op2))
    ∧ (NoRegister op1 →
      FaultsWith (exec (.loadDrr sel op1 op2) s) s (some (0x50 + sel.setWidth 8)) (.registerOutOfRange op1))
    ∧ (Holds s op1 a → NoRegister op2 →
      FaultsWith (exec (.loadDrr sel op1 op2) s) s (some (0x50 + sel.setWidth 8)) (.registerOutOfRange op2))
    ∧ (HoldsSel s sel d → NoBank s d →
      FaultsWith (exec (.loadRvr sel op1 op2) s) s (some (0x58 + sel.setWidth 8)) (.bankOutOfRange d))
    ∧ (HoldsSel s sel d → SelectsBank s d b → NoRegister op2 →
      FaultsWith (exec (.loadRvr sel op1 op2) s) s (some (0x58 + sel.setWidth 8)) (.registerOutOfRange op2))
    ∧ (HoldsSel s sel d → NoBank s d →
      FaultsWith (exec (.loadRrr sel op1 op2) s) s (some (0x60 + sel.setWidth 8)) (.bankOutOfRange d))
    ∧ (HoldsSel s sel d → SelectsBank s d b → NoRegister op1 →
      FaultsWith (exec (.loadRrr sel op1 op2) s) s (some (0x60 + sel.setWidth 8)) (.registerOutOfRange op1))
    ∧ (HoldsSel s sel d → SelectsBank s d b → Holds s op1 a → NoRegister op2 →
      FaultsWith (exec (.loadRrr sel op1 op2) s) s (some (0x60 + sel.setWidth 8)) (.registerOutOfRange op2))

/-- O39 (44_control.md section 1; 44_control.md section 2; 44_control.md section 3; 40_engine_cycle.md section 1;
92_eei_decisions.md D5; 92_eei_decisions.md D9). Under FAULT_PRIORITY = order, in each JZ and JNZ mode and whatever
the condition: a register-held selector above SELECTOR_MAX ends in BankOutOfRange(d); with a good selector a
condition byte of 8 or more ends in RegisterOutOfRange(op1); with those good a target register byte of 8 or more
ends in RegisterOutOfRange(op2) although the jump would not be taken. The order and the checking of untaken branches
are the spec parameter of D5. Which operand is the condition and which the target is the spec decision D9 (log entry
16). -/
def Obligations.BranchesCheckEveryOperandTakenOrNot : Prop :=
  ∀ (s : State) (sel : Sel) (op1 op2 d b a : Byte), s.params.faultPriority = .order →
    (NoRegister op1 →
      FaultsWith (exec (.jzDrv sel op1 op2) s) s (some (0x88 + sel.setWidth 8)) (.registerOutOfRange op1))
    ∧ (NoRegister op1 →
      FaultsWith (exec (.jzDrr sel op1 op2) s) s (some (0x90 + sel.setWidth 8)) (.registerOutOfRange op1))
    ∧ (Holds s op1 a → NoRegister op2 →
      FaultsWith (exec (.jzDrr sel op1 op2) s) s (some (0x90 + sel.setWidth 8)) (.registerOutOfRange op2))
    ∧ (HoldsSel s sel d → NoBank s d →
      FaultsWith (exec (.jzRrv sel op1 op2) s) s (some (0x98 + sel.setWidth 8)) (.bankOutOfRange d))
    ∧ (HoldsSel s sel d → SelectsBank s d b → NoRegister op1 →
      FaultsWith (exec (.jzRrv sel op1 op2) s) s (some (0x98 + sel.setWidth 8)) (.registerOutOfRange op1))
    ∧ (HoldsSel s sel d → NoBank s d →
      FaultsWith (exec (.jzRrr sel op1 op2) s) s (some (0xA0 + sel.setWidth 8)) (.bankOutOfRange d))
    ∧ (HoldsSel s sel d → SelectsBank s d b → NoRegister op1 →
      FaultsWith (exec (.jzRrr sel op1 op2) s) s (some (0xA0 + sel.setWidth 8)) (.registerOutOfRange op1))
    ∧ (HoldsSel s sel d → SelectsBank s d b → Holds s op1 a → NoRegister op2 →
      FaultsWith (exec (.jzRrr sel op1 op2) s) s (some (0xA0 + sel.setWidth 8)) (.registerOutOfRange op2))
    ∧ (NoRegister op1 →
      FaultsWith (exec (.jnzDrv sel op1 op2) s) s (some (0xA8 + sel.setWidth 8)) (.registerOutOfRange op1))
    ∧ (NoRegister op1 →
      FaultsWith (exec (.jnzDrr sel op1 op2) s) s (some (0xB0 + sel.setWidth 8)) (.registerOutOfRange op1))
    ∧ (Holds s op1 a → NoRegister op2 →
      FaultsWith (exec (.jnzDrr sel op1 op2) s) s (some (0xB0 + sel.setWidth 8)) (.registerOutOfRange op2))
    ∧ (HoldsSel s sel d → NoBank s d →
      FaultsWith (exec (.jnzRrv sel op1 op2) s) s (some (0xB8 + sel.setWidth 8)) (.bankOutOfRange d))
    ∧ (HoldsSel s sel d → SelectsBank s d b → NoRegister op1 →
      FaultsWith (exec (.jnzRrv sel op1 op2) s) s (some (0xB8 + sel.setWidth 8)) (.registerOutOfRange op1))
    ∧ (HoldsSel s sel d → NoBank s d →
      FaultsWith (exec (.jnzRrr sel op1 op2) s) s (some (0xC0 + sel.setWidth 8)) (.bankOutOfRange d))
    ∧ (HoldsSel s sel d → SelectsBank s d b → NoRegister op1 →
      FaultsWith (exec (.jnzRrr sel op1 op2) s) s (some (0xC0 + sel.setWidth 8)) (.registerOutOfRange op1))
    ∧ (HoldsSel s sel d → SelectsBank s d b → Holds s op1 a → NoRegister op2 →
      FaultsWith (exec (.jnzRrr sel op1 op2) s) s (some (0xC0 + sel.setWidth 8)) (.registerOutOfRange op2))

/-- O40 (44_control.md section 4; 40_engine_cycle.md section 1; 92_eei_decisions.md D5; 92_eei_decisions.md D9). Under
FAULT_PRIORITY = order: JMP DV and DR with a selector byte above SELECTOR_MAX end in BankOutOfRange(op1); JMP RV and
RR with op1 of 8 or more end in RegisterOutOfRange(op1), and with a register holding a selector d above SELECTOR_MAX
in BankOutOfRange(d); JMP DR and RR with a good selector and a target register of 8 or more end in
RegisterOutOfRange(op2). The order is the spec parameter of D5. That op1 holds the selector and op2 the target is
the spec decision D9 (log entry 16). -/
def Obligations.JumpFaultsInOperandOrder : Prop :=
  ∀ (s : State) (op1 op2 d b : Byte), s.params.faultPriority = .order →
    (NoBank s op1 → FaultsWith (exec (.jmpDv op1 op2) s) s (some (0x83)) (.bankOutOfRange op1))
    ∧ (NoBank s op1 → FaultsWith (exec (.jmpDr op1 op2) s) s (some (0x84)) (.bankOutOfRange op1))
    ∧ (SelectsBank s op1 b → NoRegister op2 →
      FaultsWith (exec (.jmpDr op1 op2) s) s (some (0x84)) (.registerOutOfRange op2))
    ∧ (NoRegister op1 → FaultsWith (exec (.jmpRv op1 op2) s) s (some (0x85)) (.registerOutOfRange op1))
    ∧ (Holds s op1 d → NoBank s d → FaultsWith (exec (.jmpRv op1 op2) s) s (some (0x85)) (.bankOutOfRange d))
    ∧ (NoRegister op1 → FaultsWith (exec (.jmpRr op1 op2) s) s (some (0x86)) (.registerOutOfRange op1))
    ∧ (Holds s op1 d → NoBank s d → FaultsWith (exec (.jmpRr op1 op2) s) s (some (0x86)) (.bankOutOfRange d))
    ∧ (Holds s op1 d → SelectsBank s d b → NoRegister op2 →
      FaultsWith (exec (.jmpRr op1 op2) s) s (some (0x86)) (.registerOutOfRange op2))

/-- O41 (42_set_alu.md section 1; 42_set_alu.md section 2; 43_compare.md section 1; 40_engine_cycle.md section 1;
92_eei_decisions.md D5; 92_eei_decisions.md D9). Under FAULT_PRIORITY = order, in every SET, ALU and compare form a
register operand byte op1 of 8 or more ends in RegisterOutOfRange(op1), and in the RR forms with a good op1 a byte
op2 of 8 or more in RegisterOutOfRange(op2); SUB VR checks op2. Whatever the values and pc are. The order is the
spec parameter of D5. The roles of the operands of SET and SUB VR are the spec decision D9 (log entry 16). -/
def Obligations.FlatRegisterOperandsFaultInOrder : Prop :=
  ∀ (s : State) (op1 op2 : Byte), s.params.faultPriority = .order →
    (NoRegister op1 → FaultsWith (exec (.setRv op1 op2) s) s (some (0x81)) (.registerOutOfRange op1))
    ∧ (NoRegister op1 → FaultsWith (exec (.setRr op1 op2) s) s (some (0x82)) (.registerOutOfRange op1))
    ∧ (op1.toNat < 8 → NoRegister op2 → FaultsWith (exec (.setRr op1 op2) s) s (some (0x82)) (.registerOutOfRange op2))
    ∧ (NoRegister op1 → FaultsWith (exec (.addRv op1 op2) s) s (some (aluByte s.params .addRv)) (.registerOutOfRange op1))
    ∧ (NoRegister op1 → FaultsWith (exec (.addRr op1 op2) s) s (some (aluByte s.params .addRr)) (.registerOutOfRange op1))
    ∧ (op1.toNat < 8 → NoRegister op2 → FaultsWith (exec (.addRr op1 op2) s) s (some (aluByte s.params .addRr)) (.registerOutOfRange op2))
    ∧ (NoRegister op1 → FaultsWith (exec (.subRv op1 op2) s) s (some (aluByte s.params .subRv)) (.registerOutOfRange op1))
    ∧ (NoRegister op1 → FaultsWith (exec (.subRr op1 op2) s) s (some (aluByte s.params .subRr)) (.registerOutOfRange op1))
    ∧ (op1.toNat < 8 → NoRegister op2 → FaultsWith (exec (.subRr op1 op2) s) s (some (aluByte s.params .subRr)) (.registerOutOfRange op2))
    ∧ (NoRegister op1 → FaultsWith (exec (.orRv op1 op2) s) s (some (aluByte s.params .orRv)) (.registerOutOfRange op1))
    ∧ (NoRegister op1 → FaultsWith (exec (.orRr op1 op2) s) s (some (aluByte s.params .orRr)) (.registerOutOfRange op1))
    ∧ (op1.toNat < 8 → NoRegister op2 → FaultsWith (exec (.orRr op1 op2) s) s (some (aluByte s.params .orRr)) (.registerOutOfRange op2))
    ∧ (NoRegister op1 → FaultsWith (exec (.xorRv op1 op2) s) s (some (aluByte s.params .xorRv)) (.registerOutOfRange op1))
    ∧ (NoRegister op1 → FaultsWith (exec (.xorRr op1 op2) s) s (some (aluByte s.params .xorRr)) (.registerOutOfRange op1))
    ∧ (op1.toNat < 8 → NoRegister op2 → FaultsWith (exec (.xorRr op1 op2) s) s (some (aluByte s.params .xorRr)) (.registerOutOfRange op2))
    ∧ (NoRegister op1 → FaultsWith (exec (.norRv op1 op2) s) s (some (aluByte s.params .norRv)) (.registerOutOfRange op1))
    ∧ (NoRegister op1 → FaultsWith (exec (.norRr op1 op2) s) s (some (aluByte s.params .norRr)) (.registerOutOfRange op1))
    ∧ (op1.toNat < 8 → NoRegister op2 → FaultsWith (exec (.norRr op1 op2) s) s (some (aluByte s.params .norRr)) (.registerOutOfRange op2))
    ∧ (NoRegister op1 → FaultsWith (exec (.andRv op1 op2) s) s (some (aluByte s.params .andRv)) (.registerOutOfRange op1))
    ∧ (NoRegister op1 → FaultsWith (exec (.andRr op1 op2) s) s (some (aluByte s.params .andRr)) (.registerOutOfRange op1))
    ∧ (op1.toNat < 8 → NoRegister op2 → FaultsWith (exec (.andRr op1 op2) s) s (some (aluByte s.params .andRr)) (.registerOutOfRange op2))
    ∧ (NoRegister op1 → FaultsWith (exec (.grtRv op1 op2) s) s (some (cmpByte s.params .grtRv)) (.registerOutOfRange op1))
    ∧ (NoRegister op1 → FaultsWith (exec (.grtRr op1 op2) s) s (some (cmpByte s.params .grtRr)) (.registerOutOfRange op1))
    ∧ (op1.toNat < 8 → NoRegister op2 → FaultsWith (exec (.grtRr op1 op2) s) s (some (cmpByte s.params .grtRr)) (.registerOutOfRange op2))
    ∧ (NoRegister op1 → FaultsWith (exec (.lstRv op1 op2) s) s (some (cmpByte s.params .lstRv)) (.registerOutOfRange op1))
    ∧ (NoRegister op1 → FaultsWith (exec (.lstRr op1 op2) s) s (some (cmpByte s.params .lstRr)) (.registerOutOfRange op1))
    ∧ (op1.toNat < 8 → NoRegister op2 → FaultsWith (exec (.lstRr op1 op2) s) s (some (cmpByte s.params .lstRr)) (.registerOutOfRange op2))
    ∧ (NoRegister op1 → FaultsWith (exec (.greqtRv op1 op2) s) s (some (cmpByte s.params .greqtRv)) (.registerOutOfRange op1))
    ∧ (NoRegister op1 → FaultsWith (exec (.greqtRr op1 op2) s) s (some (cmpByte s.params .greqtRr)) (.registerOutOfRange op1))
    ∧ (op1.toNat < 8 → NoRegister op2 → FaultsWith (exec (.greqtRr op1 op2) s) s (some (cmpByte s.params .greqtRr)) (.registerOutOfRange op2))
    ∧ (NoRegister op1 → FaultsWith (exec (.lseqtRv op1 op2) s) s (some (cmpByte s.params .lseqtRv)) (.registerOutOfRange op1))
    ∧ (NoRegister op1 → FaultsWith (exec (.lseqtRr op1 op2) s) s (some (cmpByte s.params .lseqtRr)) (.registerOutOfRange op1))
    ∧ (op1.toNat < 8 → NoRegister op2 → FaultsWith (exec (.lseqtRr op1 op2) s) s (some (cmpByte s.params .lseqtRr)) (.registerOutOfRange op2))
    ∧ (NoRegister op1 → FaultsWith (exec (.eqlRv op1 op2) s) s (some (cmpByte s.params .eqlRv)) (.registerOutOfRange op1))
    ∧ (NoRegister op1 → FaultsWith (exec (.eqlRr op1 op2) s) s (some (cmpByte s.params .eqlRr)) (.registerOutOfRange op1))
    ∧ (op1.toNat < 8 → NoRegister op2 → FaultsWith (exec (.eqlRr op1 op2) s) s (some (cmpByte s.params .eqlRr)) (.registerOutOfRange op2))
    ∧ (NoRegister op1 → FaultsWith (exec (.neqlRv op1 op2) s) s (some (cmpByte s.params .neqlRv)) (.registerOutOfRange op1))
    ∧ (NoRegister op1 → FaultsWith (exec (.neqlRr op1 op2) s) s (some (cmpByte s.params .neqlRr)) (.registerOutOfRange op1))
    ∧ (op1.toNat < 8 → NoRegister op2 → FaultsWith (exec (.neqlRr op1 op2) s) s (some (cmpByte s.params .neqlRr)) (.registerOutOfRange op2))
    ∧ (NoRegister op2 → FaultsWith (exec (.subVr op1 op2) s) s (some (aluByte s.params .subVr)) (.registerOutOfRange op2))

/-- O42 (40_engine_cycle.md section 1; 92_eei_decisions.md D3). Under PC_EDGE_POLICY = fault, an instruction that is no
halt and no jump, begun at pc 253 or above, ends in a fault; where its operands raise nothing (it would answer a
next state that is no fault from the same state with pc 0), the fault under either FAULT_PRIORITY is PcOutOfBank(pc)
with the opcode byte of the instruction. Rests on the spec parameter of D3. -/
def Obligations.FallThroughPastTheBankFaults : Prop :=
  ∀ (i : Instr) (s : State), i.isHalt = false → i.isJump = false → FallsOff s → s.active.toNat < 8 →
    s.status = .running →
    Faults (exec i s)
    ∧ ((∃ t, exec i { s with pc := 0 } = .next t ∧ t.status = .running) →
        FaultsWith (exec i s) s (some (opcode s.params i)) (.pcOutOfBank s.pc))

/-- O43 (60_exceptions.md section 1; 40_engine_cycle.md section 1; 20_memory.md section 2; 42_set_alu.md section 2;
44_control.md section 1; 92_eei_decisions.md D7; 92_eei_decisions.md D9). When an instruction begun in a running
state answers a state Faulted(f), under either FAULT_PRIORITY, the record f holds the pc and the active bank of the
start and the opcode byte of the instruction; and its cause is one that applies to that instruction:
RegisterOutOfRange of one of its own register operand bytes that is 8 or more; BankOutOfRange of the very selector
it resolves (the packed literal, the contents of the packed register, op1 of JMP DV and DR, the contents of register
op1 of JMP RV and RR), above SELECTOR_MAX; ArithmeticOverflow of ADD or SUB with the operation and operand values of
that ADD or SUB, whose result leaves the byte; or PcOutOfBank(pc) of a fall-through past the bank by an instruction
that falls through; never a malformed image. The record is the spec decision D7; that op0 is computed from the
instruction is log entry 12; the operand roles are the spec decision D9 (log entry 16). -/
def Obligations.FaultRecordsNameTheFaultingStep : Prop :=
  ∀ (i : Instr) (s t : State) (f : FaultRecord), s.status = .running → exec i s = .next t → t.status = .faulted f →
    f.pc = s.pc ∧ f.active = s.active ∧ f.op0 = some (opcode s.params i)
    ∧ ((∃ r ∈ i.registerOperands, 8 ≤ r.toNat ∧ f.cause = .registerOutOfRange r)
        ∨ (∃ d : Byte, resolvedSelector i s = some d ∧ s.params.selectorMax.toNat < d.toNat
            ∧ f.cause = .bankOutOfRange d)
        ∨ (∃ a b : Byte, AluOperands i s .add a b ∧ 255 < a.toNat + b.toNat ∧ f.cause = .arithmeticOverflow .add a b)
        ∨ (∃ a b : Byte, AluOperands i s .sub a b ∧ a.toNat < b.toNat ∧ f.cause = .arithmeticOverflow .sub a b)
        ∨ (FallsThrough i s ∧ s.params.pcEdge = .fault ∧ 253 ≤ s.pc.toNat ∧ f.cause = .pcOutOfBank s.pc))

/-- O44 (10_state.md section 2; 40_engine_cycle.md section 1; 60_exceptions.md section 1; 92_eei_decisions.md D5). For
every instruction one of whose register operand bytes is 8 or more, exec answers a state Faulted(f), in every state
and under every value of the parameters; and the packed selector of an R-first mode names a register for each of its
values 0..7. Under FAULT_PRIORITY = order or where it is the only fault that applies the kind is RegisterOutOfRange
(the other statements say so). That the target register of a JZ or JNZ that is not taken is checked too is the spec
decision D5 (log entry 6). -/
def Obligations.BadRegisterOperandAlwaysFaults : Prop :=
  (∀ (i : Instr) (s : State), (∃ r ∈ i.registerOperands, 8 ≤ r.toNat) → Faults (exec i s))
    ∧ ∀ (s : State) (sel : Sel), ∃ v, HoldsSel s sel v

/-- O45 (30_encoding.md section 4; 40_engine_cycle.md section 1; 44_control.md section 4; 92_eei_decisions.md D9). For
every instruction whose register references and disc literals are all below 8, and every running state, exec never
answers a state whose fault is RegisterOutOfRange; and such a JMP with a literal selector (DV and DR) answers a next
state with the status it began with, so it never faults. That op1 of JMP is the selector is the spec decision D9
(log entry 16). -/
def Obligations.WellFormedInstructionsNeverNameABadRegister : Prop :=
  (∀ (i : Instr) (s t : State) (f : FaultRecord), i.WellFormed = true → s.status = .running →
      exec i s = .next t → t.status = .faulted f → ∀ r, f.cause ≠ .registerOutOfRange r)
    ∧ ∀ (i : Instr) (s : State), i.WellFormed = true → i.selectorOperands ≠ [] →
      ∃ t, exec i s = .next t ∧ t.status = s.status

/-- O46 (60_exceptions.md section 1; 93_implementation_defined.md section 1; 92_eei_decisions.md D5). For every list of
faults that apply to a step, first reached in front: under FAULT_PRIORITY = order the first is reported, and under
any the one reported is in the list; a lone fault is reported under both. The parameter is D5. -/
def Obligations.ReportedFaultIsOneThatApplies : Prop :=
  ∀ (s : State) (op0 : Option Byte) (first : Cause) (rest : List Cause),
    (s.params.faultPriority = .order → reported s op0 first rest = first)
    ∧ reported s op0 first rest ∈ first :: rest ∧ reported s op0 first [] = first

/-- O47 (60_exceptions.md section 1; 93_implementation_defined.md section 1; 92_eei_decisions.md D5). For every
instruction and state and both values q of FAULT_PRIORITY: where exec answers a next state that is not faulted, it
answers under q the same state but for the parameter; and where it answers a fault, it answers a fault under q. The
parameter is D5. -/
def Obligations.FaultPriorityNeverDecidesWhetherAStepFaults : Prop :=
  ∀ (i : Instr) (s t : State) (q : FaultPriority), s.status = .running → exec i s = .next t →
    (t.Safe = true → exec i { s with params := { s.params with faultPriority := q } }
      = .next { t with params := { t.params with faultPriority := q } })
    ∧ (t.Safe = false → Faults (exec i { s with params := { s.params with faultPriority := q } }))

/-- O48 (10_state.md section 4; 20_memory.md section 1). For every instruction that answers a next state that is not
faulted: if it is no jump, active is unchanged; if it is a jump, active is unchanged or is one of the banks 0..7. -/
def Obligations.OnlyJumpsChangeTheActiveBank : Prop :=
  ∀ (i : Instr) (s t : State), exec i s = .next t → t.Safe = true →
    (i.isJump = false → t.active = s.active) ∧ (i.isJump = true → t.active = s.active ∨ t.active.toNat < 8)

/-- O49 (10_state.md section 2; 40_engine_cycle.md section 1; 41_save_load.md section 1; 42_set_alu.md section 1;
92_eei_decisions.md D9). For every instruction that answers a next state that is not faulted, every register is
unchanged except its destination, op2 of LOAD, op1 of SET, R0 of the ALU and compare instructions; SAVE, jumps, END
and the unassigned opcodes write none. That op2 is the destination of LOAD and op1 that of SET is the spec decision
D9 (log entry 16). -/
def Obligations.OnlyTheDestinationRegisterChanges : Prop :=
  ∀ (i : Instr) (s t : State), exec i s = .next t → t.Safe = true →
    ∀ j : Fin 8, (∀ r, i.destination = some r → r.toNat ≠ j) → readX t j = readX s j

/-- O50 (10_state.md section 2; 42_set_alu.md section 1; 42_set_alu.md section 2; 43_compare.md section 1;
41_save_load.md section 3; 92_eei_decisions.md D9). For every arithmetic, logic and comparison instruction that
answers a next state that is not faulted, register 0 is the result of its operation or relation on its own two
operands (a byte for ADD and SUB only where there is no overflow), and registers 1 to 7 are unchanged, as are
memory, active and status; and SET RV and RR with destination 0 write R0, all four LOAD modes with destination 0
load it, and operand byte 0 and packed selector 0 read it as any other register. The operand order of the ALU and
compare instructions and the destinations of SET and LOAD are the spec decision D9 (log entry 16); what the logic
and compare mnemonics compute is log entry 14. -/
def Obligations.AluAndCompareWriteOnlyRegisterZero : Prop :=
  (∀ (s t : State) (f : AluForm) (op1 op2 : Byte), t.Safe = true → exec (aluInstr f op1 op2) s = .next t →
      (∃ op a b, AluOperands (aluInstr f op1 op2) s op a b ∧ alu op a b = .ok (readX t 0))
      ∧ (∀ j : Fin 8, j ≠ 0 → readX t j = readX s j) ∧ t.banks = s.banks ∧ t.active = s.active ∧ t.status = s.status)
    ∧ (∀ (s t : State) (g : CmpForm) (op1 op2 : Byte), t.Safe = true → exec (cmpInstr g op1 op2) s = .next t →
      (∃ rel a b, CmpOperands (cmpInstr g op1 op2) s rel a b ∧ readX t 0 = cmpResult rel a b)
      ∧ (∀ j : Fin 8, j ≠ 0 → readX t j = readX s j) ∧ t.banks = s.banks ∧ t.active = s.active ∧ t.status = s.status)
    ∧ (∀ (s : State) (sel : Sel) (op1 v b d a n : Byte), FallsTo s n → b.toNat < 8 →
        let loaded (i : Byte) : StepOutcome := .next { s with x := s.x.set 0 (s.banks.read (cellAddr b i)), pc := n }
        exec (.setRv 0 v) s = .next { s with x := s.x.set 0 v, pc := n }
        ∧ (Holds s op1 v → exec (.setRr 0 op1) s = .next { s with x := s.x.set 0 v, pc := n })
        ∧ (SelectsBank s (sel.setWidth 8) b → exec (.loadDvr sel op1 0) s = loaded op1)
        ∧ (SelectsBank s (sel.setWidth 8) b → Holds s op1 a → exec (.loadDrr sel op1 0) s = loaded a)
        ∧ (HoldsSel s sel d → SelectsBank s d b → exec (.loadRvr sel op1 0) s = loaded op1)
        ∧ (HoldsSel s sel d → SelectsBank s d b → Holds s op1 a → exec (.loadRrr sel op1 0) s = loaded a)
        ∧ reg s 0 = .ok (readX s 0) ∧ readX s (selIndex 0) = readX s 0)

/-- O51 (00_scope.md section 4; 10_state.md section 6). For every instruction that answers a next state, the parameters
are as before, a fault included; and a next state that is not faulted has the same counter of free values. The
parameters and the counter are the model's own fields (log entries 2 and 3). -/
def Obligations.NoInstructionChangesTheParameters : Prop :=
  ∀ (i : Instr) (s t : State), exec i s = .next t →
    t.params = s.params ∧ (t.Safe = true → t.freeIndex = s.freeIndex)

/-- O52 (44_control.md section 5; 10_state.md section 5). For every instruction begun in a running state that answers a
next state: the status is Halted exactly when the instruction is END or an unassigned opcode, and otherwise it is
Running or Faulted. -/
def Obligations.HaltedExactlyByEndOrUnassigned : Prop :=
  ∀ (i : Instr) (s t : State), s.status = .running → exec i s = .next t →
    (t.status = .halted ↔ i.isHalt = true) ∧ (i.isHalt = false → t.status = .running ∨ t.status.isFaulted = true)

/-- O53 (40_engine_cycle.md section 1; 10_state.md section 3; 92_eei_decisions.md D3). For every instruction that is no
jump and no halt and answers a next state that is not faulted: pc is 3 greater, modulo 256 only where PC_EDGE_POLICY
is wrap, and active is unchanged; so under the default no pc wraps around. The edge policy is the spec parameter of
D3. -/
def Obligations.StraightLineCodeAdvancesByThree : Prop :=
  ∀ (i : Instr) (s t : State), i.isJump = false → i.isHalt = false → exec i s = .next t → t.Safe = true →
    t.active = s.active ∧ t.pc = s.pc + 3 ∧ (s.params.pcEdge = .fault → t.pc.toNat = s.pc.toNat + 3)

/-- O54 (20_memory.md section 1; 41_save_load.md section 1; 44_control.md section 1; 92_eei_decisions.md D9). The
fetched instruction depends on the cells of the active bank only; an instruction that is no SAVE or LOAD answers the
same registers, pc, active and status whatever the memory holds, and leaves that memory as it is; SAVE RVV stores to
every bank that a register-held selector can resolve to, LOAD RVR reads the cell of that bank into register op2, and
JMP DV with the same selector makes that bank the active one. The operand roles of these three forms are the spec
decision D9 (log entry 16). -/
def Obligations.OtherInstructionsDoNotTouchMemory : Prop :=
  (∀ (s : State) (m : Memory), (∀ a : Byte, m.read (cellAddr s.active a) = s.banks.read (cellAddr s.active a)) →
      fetched { s with banks := m } = fetched s)
    ∧ (∀ (i : Instr) (s t : State) (m : Memory), i.touchesMemory = false → exec i s = .next t → s.status = .running →
        t.Safe = true → t.banks = s.banks ∧ exec i { s with banks := m } = .next { t with banks := m })
    ∧ (∀ (s : State) (sel : Sel) (a v d b n r : Byte), HoldsSel s sel d → SelectsBank s d b → b.toNat < 8 →
        FallsTo s n → exec (.saveRvv sel a v) s = .next { s with banks := s.banks.write (cellAddr b a) v, pc := n }
        ∧ (∀ j : Fin 8, r.toNat = j → exec (.loadRvr sel a r) s
            = .next { s with x := s.x.set j (s.banks.read (cellAddr b a)), pc := n })
        ∧ exec (.jmpDv d a) s = .next { s with active := b, pc := a })

/-- O55 (20_memory.md section 5; 40_engine_cycle.md section 1; 41_save_load.md section 2; 92_eei_decisions.md D13;
92_eei_decisions.md D6; 92_eei_decisions.md D9). From a running state with an existing active bank and pc at most
250, where the fetched instruction is a SAVE of any mode that stores a byte v to a cell a of the active bank,
whichever cell (its own bytes at pc to pc + 2 and those of the next instruction at pc + 3 to pc + 5 among them): the
step stores v at a and goes on to pc + 3, with a and v those of the word as it was fetched, and nothing else
changes; every cell of the active bank then reads as before but for a, which reads v; and the next step is exec of
the instruction decoded from the three bytes at pc + 3 to pc + 5 as they are after the store. Fetch coherence is the
spec decision D13, that a step reads the state of its start is D6 (log entry 23), and the operand roles are D9 (log
entry 16). -/
def Obligations.StoreIsSeenByTheNextFetch : Prop :=
  ∀ (s : State) (a v : Byte), s.status = .running → s.active.toNat < 8 → s.pc.toNat ≤ 250 →
    storeTarget (fetched s) s = some (.ok (s.active, a)) → storedByte (fetched s) s = some (.ok v) →
    let t : State := { s with banks := s.banks.write (cellAddr s.active a) v, pc := s.pc + 3 }
    let after (c : Byte) : Byte := if c = a then v else memRead s s.active c
    step s = .next t ∧ (∀ c : Byte, memRead t s.active c = after c)
      ∧ step t = exec (decodeWord s.params (after (s.pc + 3)) (after (s.pc + 4)) (after (s.pc + 5))) t

/-- O56 (20_memory.md section 5; 41_save_load.md section 2; 41_save_load.md section 3; 92_eei_decisions.md D9). A SAVE
of any mode that stores a byte v to cell a of bank b, followed at once by a LOAD of any mode whose operands, read in
the state after the store, name that cell, leaves v in the register that the destination byte of the LOAD names; any
selector that names the bank and any index operand that gives the cell will do. The cell stored to, the byte stored
and the cell loaded are computed by the operand functions that the meanings use. The operand roles are the spec
decision D9 (log entry 16). -/
def Obligations.LoadReturnsTheMostRecentSave : Prop :=
  ∀ (i j : Instr) (s t u : State) (b a v r : Byte),
    storeTarget i s = some (.ok (b, a)) → storedByte i s = some (.ok v) → exec i s = .next t → t.Safe = true →
    loadSource j t = some (.ok (b, a)) → j.destination = some r → exec j t = .next u → u.Safe = true →
    Holds u r v

/-- O57 (60_exceptions.md section 2; 40_engine_cycle.md section 2). If a step answers a state that is not Running, the
next step answers no next state, and every run from that state, with any fuel, answers that same state. -/
def Obligations.StopStateIsFinal : Prop :=
  ∀ s t : State, step s = .next t → t.status ≠ .running →
    (∀ u, step t ≠ .next u) ∧ (∀ k, runLoop k t = .next t)

/-- O58 (20_memory.md section 2; 40_engine_cycle.md section 1; 92_eei_decisions.md D14; 92_eei_decisions.md D5;
92_eei_decisions.md D9). For every R-first SAVE, LOAD, JZ and JNZ mode whose selector register holds a value above
SELECTOR_MAX, for JMP DV and DR with such a selector byte, and for JMP RV and RR whose register holds one, exec
answers a fault in every state, whatever the other operands are and whether or not the jump would be taken.
SELECTOR_MAX is the spec parameter of D14; that a JZ or JNZ that is not taken faults on its selector is the spec
decision D5 (log entry 6); that op1 of JMP is or holds the selector is D9 (log entry 16). -/
def Obligations.HeldSelectorsBeyondTheMaximumFault : Prop :=
  ∀ (s : State) (sel : Sel) (op1 op2 d : Byte), NoBank s d →
    (HoldsSel s sel d →
      Faults (exec (.saveRvv sel op1 op2) s) ∧ Faults (exec (.saveRvr sel op1 op2) s)
      ∧ Faults (exec (.saveRrv sel op1 op2) s) ∧ Faults (exec (.saveRrr sel op1 op2) s)
      ∧ Faults (exec (.loadRvr sel op1 op2) s) ∧ Faults (exec (.loadRrr sel op1 op2) s)
      ∧ Faults (exec (.jzRrv sel op1 op2) s) ∧ Faults (exec (.jzRrr sel op1 op2) s)
      ∧ Faults (exec (.jnzRrv sel op1 op2) s) ∧ Faults (exec (.jnzRrr sel op1 op2) s))
    ∧ Faults (exec (.jmpDv d op2) s) ∧ Faults (exec (.jmpDr d op2) s)
    ∧ (Holds s op1 d → Faults (exec (.jmpRv op1 op2) s) ∧ Faults (exec (.jmpRr op1 op2) s))

/-- O59 (R82). In every state whose status is not Running, step answers no next state, and the run loop answers that
same state whatever the fuel. -/
def Obligations.NoStepOutsideRunning : Prop :=
  ∀ s : State, s.status ≠ .running → (∀ t, step s ≠ .next t) ∧ ∀ k, runLoop k s = .next s
end

