-- ==== Sys2Proof/Laws/Codec.lean ====
section
/-! SUPPORT. The bit fields of a packed opcode, and the lookups of ALU_CMP_OPCODE_MAP. -/

namespace Sys2Proof

/-- A packed opcode with base `k * 8`: the decoder recovers `k` and the selector (R66). -/
theorem bits_packed : ∀ (k : BitVec 5) (s : Sel),
    bits (packed (k ++ 0#3) s) 3 5 = k ∧ bits (packed (k ++ 0#3) s) 0 3 = s := by decide

theorem wf_alu_mem (p : Params) (h : p.wf = true) (f : AluForm) : f ∈ p.aluMap.toList := by
  simp only [Params.wf, Bool.and_eq_true, List.all_eq_true] at h
  have hf : f ∈ AluForm.listing.toList := by cases f <;> decide
  simpa using h.1.1.1 f hf

theorem wf_cmp_mem (p : Params) (h : p.wf = true) (f : CmpForm) : f ∈ p.cmpMap.toList := by
  simp only [Params.wf, Bool.and_eq_true, List.all_eq_true] at h
  have hf : f ∈ CmpForm.listing.toList := by cases f <;> decide
  simpa using h.1.2 f hf

theorem wf_alu_nodup (p : Params) (h : p.wf = true) : p.aluMap.toList.Nodup := by
  simp only [Params.wf, Bool.and_eq_true, decide_eq_true_eq] at h
  exact h.1.1.2

theorem wf_cmp_nodup (p : Params) (h : p.wf = true) : p.cmpMap.toList.Nodup := by
  simp only [Params.wf, Bool.and_eq_true, decide_eq_true_eq] at h
  exact h.2

/-- The place of an ALU pair in the map is below 13, and the map gives the pair back. -/
theorem alu_lookup (p : Params) (h : p.wf = true) (f : AluForm) :
    ∃ hk : p.aluMap.toList.idxOf f < 13, p.aluMap[p.aluMap.toList.idxOf f] = f := by
  have hk := List.idxOf_lt_length_of_mem (wf_alu_mem p h f)
  have hk' : p.aluMap.toList.idxOf f < 13 := by simpa using hk
  refine ⟨hk', ?_⟩
  rw [← Vector.getElem_toList]
  exact List.getElem_idxOf hk

/-- The place of a compare pair in the map is below 12, and the map gives the pair back. -/
theorem cmp_lookup (p : Params) (h : p.wf = true) (f : CmpForm) :
    ∃ hk : p.cmpMap.toList.idxOf f < 12, p.cmpMap[p.cmpMap.toList.idxOf f] = f := by
  have hk := List.idxOf_lt_length_of_mem (wf_cmp_mem p h f)
  have hk' : p.cmpMap.toList.idxOf f < 12 := by simpa using hk
  refine ⟨hk', ?_⟩
  rw [← Vector.getElem_toList]
  exact List.getElem_idxOf hk

/-- The opcode byte of the ALU pair at place `k` is 0x68 + k. -/
theorem aluByte_getElem (p : Params) (h : p.wf = true) (k : Nat) (hk : k < 13) :
    aluByte p p.aluMap[k] = BitVec.ofNat 8 (0x68 + k) := by
  have e : p.aluMap.toList.idxOf p.aluMap[k] = k := by
    rw [← Vector.getElem_toList]
    exact (wf_alu_nodup p h).idxOf_getElem k (by simpa using hk)
  rw [aluByte, e]

/-- The opcode byte of the compare pair at place `k` is 0x75 + k. -/
theorem cmpByte_getElem (p : Params) (h : p.wf = true) (k : Nat) (hk : k < 12) :
    cmpByte p p.cmpMap[k] = BitVec.ofNat 8 (0x75 + k) := by
  have e : p.cmpMap.toList.idxOf p.cmpMap[k] = k := by
    rw [← Vector.getElem_toList]
    exact (wf_cmp_nodup p h).idxOf_getElem k (by simpa using hk)
  rw [cmpByte, e]

end Sys2Proof
end

