-- ==== Sys2Proof/Laws/State.lean ====
section
/-! SUPPORT. One lemma per field per update of the state: no later proof unfolds a record update. -/

namespace Sys2Proof.Machine

@[simp] theorem writeX_banks (s : State) (i : Fin 8) (v : Byte) : (writeX s i v).banks = s.banks := rfl
@[simp] theorem writeX_x (s : State) (i : Fin 8) (v : Byte) : (writeX s i v).x = s.x.set i v := rfl
@[simp] theorem writeX_pc (s : State) (i : Fin 8) (v : Byte) : (writeX s i v).pc = s.pc := rfl
@[simp] theorem writeX_active (s : State) (i : Fin 8) (v : Byte) : (writeX s i v).active = s.active := rfl
@[simp] theorem writeX_status (s : State) (i : Fin 8) (v : Byte) : (writeX s i v).status = s.status := rfl
@[simp] theorem writeX_freeIndex (s : State) (i : Fin 8) (v : Byte) : (writeX s i v).freeIndex = s.freeIndex := rfl
@[simp] theorem writeX_params (s : State) (i : Fin 8) (v : Byte) : (writeX s i v).params = s.params := rfl

@[simp] theorem memWrite_banks (s : State) (b a v : Byte) : (memWrite s b a v).banks = s.banks.write (cellAddr b a) v := rfl
@[simp] theorem memWrite_x (s : State) (b a v : Byte) : (memWrite s b a v).x = s.x := rfl
@[simp] theorem memWrite_pc (s : State) (b a v : Byte) : (memWrite s b a v).pc = s.pc := rfl
@[simp] theorem memWrite_active (s : State) (b a v : Byte) : (memWrite s b a v).active = s.active := rfl
@[simp] theorem memWrite_status (s : State) (b a v : Byte) : (memWrite s b a v).status = s.status := rfl
@[simp] theorem memWrite_freeIndex (s : State) (b a v : Byte) : (memWrite s b a v).freeIndex = s.freeIndex := rfl
@[simp] theorem memWrite_params (s : State) (b a v : Byte) : (memWrite s b a v).params = s.params := rfl

@[simp] theorem setPc_banks (s : State) (t : Byte) : (setPc s t).banks = s.banks := rfl
@[simp] theorem setPc_x (s : State) (t : Byte) : (setPc s t).x = s.x := rfl
@[simp] theorem setPc_pc (s : State) (t : Byte) : (setPc s t).pc = t := rfl
@[simp] theorem setPc_active (s : State) (t : Byte) : (setPc s t).active = s.active := rfl
@[simp] theorem setPc_status (s : State) (t : Byte) : (setPc s t).status = s.status := rfl
@[simp] theorem setPc_freeIndex (s : State) (t : Byte) : (setPc s t).freeIndex = s.freeIndex := rfl
@[simp] theorem setPc_params (s : State) (t : Byte) : (setPc s t).params = s.params := rfl

@[simp] theorem setActive_banks (s : State) (b : Byte) : (setActive s b).banks = s.banks := rfl
@[simp] theorem setActive_x (s : State) (b : Byte) : (setActive s b).x = s.x := rfl
@[simp] theorem setActive_pc (s : State) (b : Byte) : (setActive s b).pc = s.pc := rfl
@[simp] theorem setActive_active (s : State) (b : Byte) : (setActive s b).active = b := rfl
@[simp] theorem setActive_status (s : State) (b : Byte) : (setActive s b).status = s.status := rfl
@[simp] theorem setActive_freeIndex (s : State) (b : Byte) : (setActive s b).freeIndex = s.freeIndex := rfl
@[simp] theorem setActive_params (s : State) (b : Byte) : (setActive s b).params = s.params := rfl

@[simp] theorem setStatus_banks (s : State) (v : Status) : (setStatus s v).banks = s.banks := rfl
@[simp] theorem setStatus_x (s : State) (v : Status) : (setStatus s v).x = s.x := rfl
@[simp] theorem setStatus_pc (s : State) (v : Status) : (setStatus s v).pc = s.pc := rfl
@[simp] theorem setStatus_active (s : State) (v : Status) : (setStatus s v).active = s.active := rfl
@[simp] theorem setStatus_status (s : State) (v : Status) : (setStatus s v).status = v := rfl
@[simp] theorem setStatus_freeIndex (s : State) (v : Status) : (setStatus s v).freeIndex = s.freeIndex := rfl
@[simp] theorem setStatus_params (s : State) (v : Status) : (setStatus s v).params = s.params := rfl

@[simp] theorem takeFault_status (s : State) (op0 : Option Byte) (c : Cause) :
    (takeFault s op0 c).status = .faulted { cause := c, pc := s.pc, active := s.active, op0 := op0 } := rfl
@[simp] theorem takeFault_params (s : State) (op0 : Option Byte) (c : Cause) :
    (takeFault s op0 c).params = s.params := rfl
@[simp] theorem takeFault_freeIndex (s : State) (op0 : Option Byte) (c : Cause) :
    (takeFault s op0 c).freeIndex = s.freeIndex + 1 := rfl
@[simp] theorem takeFault_banks (s : State) (op0 : Option Byte) (c : Cause) :
    (takeFault s op0 c).banks = Memory.ofCells (Config.bankByteAfterFault (faultSite s op0)) := rfl

/-- A register read after a write to it gives the value written. -/
@[simp] theorem readX_writeX_same (s : State) (i : Fin 8) (v : Byte) : readX (writeX s i v) i = v := by
  simp [readX, writeX]

/-- A register write leaves every other register alone. -/
theorem readX_writeX_other (s : State) (i j : Fin 8) (v : Byte) (h : i ≠ j) :
    readX (writeX s i v) j = readX s j := by
  have : (i : Nat) ≠ j := fun e => h (Fin.ext e)
  simp [readX, writeX, this]

end Sys2Proof.Machine
end

