-- ==== Sys2Proof/Laws/Memory.lean ====
section
/-! SUPPORT. The memory operations: read after write, and every operation keeps the canonical form. -/

namespace Sys2Proof.Machine

theorem read_erase_same (m : Memory) (a : Nat) : (m.erase a).read a = 0 := by
  induction m with
  | nil => rfl
  | cons e rest ih =>
    by_cases h : e.1 = a
    · simpa [Memory.erase, h] using ih
    · simpa [Memory.erase, h, Memory.read] using ih

theorem read_erase_other (m : Memory) (a k : Nat) (h : k ≠ a) : (m.erase a).read k = m.read k := by
  induction m with
  | nil => rfl
  | cons e rest ih =>
    have ih' : Memory.read (List.filter (fun e => !decide (e.1 = a)) rest) k = Memory.read rest k := by
      simpa [Memory.erase] using ih
    by_cases he : e.1 = a
    · simp [Memory.erase, he, Memory.read, ih', h.symm]
    · simp [Memory.erase, he, Memory.read, ih']

theorem read_insert_same (m : Memory) (a : Nat) (v : Byte) (h : ∀ e ∈ m, e.1 ≠ a) : (m.insert a v).read a = v := by
  induction m with
  | nil => simp [Memory.insert, Memory.read]
  | cons e rest ih =>
    have he : e.1 ≠ a := h e (by simp)
    have hr := ih (fun e he => h e (by simp [he]))
    by_cases hlt : a < e.1
    · simp [Memory.insert, hlt, Memory.read]
    · simp [Memory.insert, hlt, Memory.read, he, hr]

theorem read_insert_other (m : Memory) (a k : Nat) (v : Byte) (h : k ≠ a) : (m.insert a v).read k = m.read k := by
  induction m with
  | nil => simp [Memory.insert, Memory.read, h.symm]
  | cons e rest ih =>
    by_cases hlt : a < e.1
    · simp [Memory.insert, hlt, Memory.read, h.symm]
    · simp [Memory.insert, hlt, Memory.read, ih]

theorem erase_addr_ne (m : Memory) (a : Nat) : ∀ e ∈ m.erase a, e.1 ≠ a := by
  intro e he
  simpa [Memory.erase] using (List.mem_filter.mp he).2

/-- A read after a write to the same cell gives the byte written, in any memory. -/
@[simp] theorem read_write_same (m : Memory) (a : Nat) (v : Byte) : (m.write a v).read a = v := by
  unfold Memory.write
  split
  · rename_i h; rw [read_erase_same, h]
  · exact read_insert_same _ _ _ (erase_addr_ne m a)

/-- A write leaves every other cell alone, in any memory. -/
theorem read_write_other (m : Memory) (a k : Nat) (v : Byte) (h : k ≠ a) : (m.write a v).read k = m.read k := by
  unfold Memory.write
  split
  · exact read_erase_other m a k h
  · rw [read_insert_other _ a k v h, read_erase_other m a k h]

/-! ## The canonical form -/

/-- The canonical form as a proposition: sorted, and each entry within the 2048 cells and not 0. -/
theorem wf_iff (m : Memory) : m.wf = true ↔ m.sorted = true ∧ ∀ e ∈ m, e.1 < 2048 ∧ e.2 ≠ 0 := by
  simp [Memory.wf]

theorem sorted_cons (e : Host.Cell) (m : Memory) :
    Memory.sorted (e :: m) = true ↔ (∀ d ∈ m, e.1 < d.1) ∧ Memory.sorted m = true := by
  simp [Memory.sorted]

theorem mem_erase {m : Memory} {a : Nat} {e : Host.Cell} (h : e ∈ m.erase a) : e ∈ m :=
  (List.mem_filter.mp h).1

theorem mem_insert {m : Memory} {a : Nat} {v : Byte} {e : Host.Cell} (h : e ∈ m.insert a v) : e = (a, v) ∨ e ∈ m := by
  induction m with
  | nil => left; simpa [Memory.insert] using h
  | cons d rest ih =>
    by_cases hlt : a < d.1
    · simpa [Memory.insert, hlt] using h
    · simp only [Memory.insert, hlt, if_false, List.mem_cons] at h
      rcases h with h | h
      · right; simp [h]
      · rcases ih h with h | h
        · left; exact h
        · right; simp [h]

theorem erase_sorted (m : Memory) (a : Nat) (h : m.sorted = true) : (m.erase a).sorted = true := by
  induction m with
  | nil => rfl
  | cons e rest ih =>
    rw [sorted_cons] at h
    have ih' := ih h.2
    by_cases he : e.1 = a
    · simpa [Memory.erase, he] using ih'
    · have : Memory.erase (e :: rest) a = e :: Memory.erase rest a := by simp [Memory.erase, he]
      rw [this, sorted_cons]
      exact ⟨fun d hd => h.1 d (mem_erase hd), ih'⟩

theorem insert_sorted (m : Memory) (a : Nat) (v : Byte) (h : m.sorted = true) (hne : ∀ e ∈ m, e.1 ≠ a) :
    (m.insert a v).sorted = true := by
  induction m with
  | nil => simp [Memory.insert, Memory.sorted]
  | cons e rest ih =>
    have hs := (sorted_cons e rest).mp h
    by_cases hlt : a < e.1
    · simp only [Memory.insert, hlt, if_true]
      rw [sorted_cons]
      refine ⟨fun d hd => ?_, h⟩
      rcases List.mem_cons.mp hd with rfl | hd
      · exact hlt
      · exact Nat.lt_trans hlt (hs.1 d hd)
    · simp only [Memory.insert, hlt, if_false]
      rw [sorted_cons]
      refine ⟨fun d hd => ?_, ih hs.2 (fun e he => hne e (by simp [he]))⟩
      rcases mem_insert hd with rfl | hd
      · have := hne e (by simp); simp only; omega
      · exact hs.1 d hd

/-- A write within the 2048 cells keeps the canonical form. -/
theorem write_wf (m : Memory) (a : Nat) (v : Byte) (h : m.wf = true) (ha : a < 2048) : (m.write a v).wf = true := by
  rw [wf_iff] at h ⊢
  by_cases hv : v = 0
  · simp only [Memory.write, hv, if_true]
    exact ⟨erase_sorted m a h.1, fun e he => h.2 e (mem_erase he)⟩
  · simp only [Memory.write, hv, if_false]
    refine ⟨insert_sorted _ a v (erase_sorted m a h.1) (erase_addr_ne m a), fun e he => ?_⟩
    rcases mem_insert he with rfl | he
    · exact ⟨ha, hv⟩
    · exact h.2 e (mem_erase he)

theorem cellsFrom_bounds (f : Nat → Byte) (a n : Nat) :
    ∀ e ∈ Memory.cellsFrom f a n, a ≤ e.1 ∧ e.1 < a + n ∧ e.2 ≠ 0 := by
  induction n generalizing a with
  | zero => intro e he; simp [Memory.cellsFrom] at he
  | succ k ih =>
    intro e he
    by_cases h : f a = 0
    · simp only [Memory.cellsFrom, h, if_true] at he
      have := ih (a + 1) e he
      exact ⟨by omega, by omega, this.2.2⟩
    · simp only [Memory.cellsFrom, h, if_false, List.mem_cons] at he
      rcases he with rfl | he
      · exact ⟨by simp, by simp, h⟩
      · have := ih (a + 1) e he
        exact ⟨by omega, by omega, this.2.2⟩

theorem cellsFrom_sorted (f : Nat → Byte) (a n : Nat) : (Memory.cellsFrom f a n).sorted = true := by
  induction n generalizing a with
  | zero => rfl
  | succ k ih =>
    by_cases h : f a = 0
    · simpa [Memory.cellsFrom, h] using ih (a + 1)
    · simp only [Memory.cellsFrom, h, if_false]
      rw [sorted_cons]
      refine ⟨fun d hd => ?_, ih (a + 1)⟩
      have := (cellsFrom_bounds f (a + 1) k d hd).1
      simp only; omega

/-- A memory built from its 2048 cells is in canonical form. -/
theorem ofCells_wf (f : Nat → Byte) : (Memory.ofCells f).wf = true := by
  rw [wf_iff]
  refine ⟨cellsFrom_sorted f 0 2048, fun e he => ?_⟩
  have := cellsFrom_bounds f 0 2048 e he
  exact ⟨by omega, this.2.2⟩

theorem read_of_not_mem (m : Memory) (k : Nat) (h : ∀ e ∈ m, e.1 ≠ k) : m.read k = 0 := by
  induction m with
  | nil => rfl
  | cons e rest ih =>
    simp [Memory.read, h e (by simp), ih (fun e he => h e (by simp [he]))]

theorem read_cellsFrom (f : Nat → Byte) (a n k : Nat) (h1 : a ≤ k) (h2 : k < a + n) :
    (Memory.cellsFrom f a n).read k = f k := by
  induction n generalizing a with
  | zero => omega
  | succ j ih =>
    by_cases hk : k = a
    · subst hk
      by_cases h : f k = 0
      · simp only [Memory.cellsFrom, h, if_true]
        refine read_of_not_mem _ _ fun e he => ?_
        have := (cellsFrom_bounds f (k + 1) j e he).1
        omega
      · simp only [Memory.cellsFrom, h, if_false, Memory.read, if_true]
    · have := ih (a + 1) (by omega) (by omega)
      by_cases h : f a = 0
      · simpa only [Memory.cellsFrom, h, if_true] using this
      · simpa only [Memory.cellsFrom, h, if_false, Memory.read, Ne.symm hk] using this

/-- A memory built from its 2048 cells reads as they say. -/
theorem read_ofCells (f : Nat → Byte) (k : Nat) (h : k < 2048) : (Memory.ofCells f).read k = f k :=
  read_cellsFrom f 0 2048 k (Nat.zero_le k) (by omega)

/-! ## Cell addresses -/

theorem cellAddr_lt (b a : Byte) (h : bankExists b = true) : cellAddr b a < 2048 := by
  simp only [bankExists, decide_eq_true_eq] at h
  have := a.isLt
  simp only [cellAddr]; omega

/-- Two pairs (b, a) are one cell only if they are the same pair. -/
theorem cellAddr_inj (b a b' a' : Byte) (h : cellAddr b a = cellAddr b' a') : b = b' ∧ a = a' := by
  simp only [cellAddr] at h
  have ha := a.isLt
  have ha' := a'.isLt
  exact ⟨BitVec.eq_of_toNat_eq (by omega), BitVec.eq_of_toNat_eq (by omega)⟩

@[simp] theorem memRead_memWrite_same (s : State) (b a v : Byte) : memRead (memWrite s b a v) b a = v := by
  simp [memRead]

theorem memRead_memWrite_other (s : State) (b a v b' a' : Byte) (h : (b', a') ≠ (b, a)) :
    memRead (memWrite s b a v) b' a' = memRead s b' a' := by
  refine read_write_other _ _ _ _ fun e => h ?_
  obtain ⟨rfl, rfl⟩ := cellAddr_inj _ _ _ _ e
  rfl

theorem memWrite_wf (s : State) (b a v : Byte) (h : s.banks.wf = true) (hb : bankExists b = true) :
    (memWrite s b a v).banks.wf = true :=
  write_wf _ _ _ h (cellAddr_lt b a hb)

theorem takeFault_banks_wf (s : State) (op0 : Option Byte) (c : Cause) : (takeFault s op0 c).banks.wf = true :=
  ofCells_wf _

end Sys2Proof.Machine
end

