-- ==== Sys2Proof/Laws/Ops.lean ====
section
/-! SUPPORT. One lemma per shared operation: when a check gives a value, which faults it can raise, and everything an
instruction can do. -/

namespace Sys2Proof.Machine

/-! ## Checks -/

@[simp] theorem both_ok_iff {α β : Type} (c : Checked α) (d : Checked β) (p : α × β) :
    c.both d = .ok p ↔ c = .ok p.1 ∧ d = .ok p.2 := by
  obtain ⟨u, w⟩ := p
  cases c <;> cases d <;> simp [Checked.both]

@[simp] theorem bind_ok_iff {α β : Type} (c : Checked α) (k : α → Checked β) (w : β) :
    c.bind k = .ok w ↔ ∃ v, c = .ok v ∧ k v = .ok w := by
  cases c <;> simp [Checked.bind]

@[simp] theorem map_ok_iff {α β : Type} (f : α → β) (c : Checked α) (w : β) :
    c.map f = .ok w ↔ ∃ v, c = .ok v ∧ f v = w := by
  cases c <;> simp [Checked.map]

/-- The faults of a check, the first one reached in front. -/
def Checked.causes {α : Type} (c : Checked α) : List Cause :=
  match c with
  | .ok _ => []
  | .bad first rest => first :: rest

@[simp] theorem causes_ok {α : Type} (v : α) : (Checked.ok v).causes = [] := rfl

@[simp] theorem causes_bad {α : Type} (f : Cause) (r : List Cause) :
    (Checked.bad f r : Checked α).causes = f :: r := rfl

@[simp] theorem bind_ok {α β : Type} (v : α) (k : α → Checked β) : (Checked.ok v).bind k = k v := rfl

@[simp] theorem bind_bad {α β : Type} (f : Cause) (r : List Cause) (k : α → Checked β) :
    (Checked.bad f r).bind k = .bad f r := rfl

@[simp] theorem both_ok_ok {α β : Type} (v : α) (w : β) : (Checked.ok v).both (.ok w) = .ok (v, w) := rfl

@[simp] theorem both_bad_ok {α β : Type} (f : Cause) (r : List Cause) (w : β) :
    (Checked.bad f r : Checked α).both (.ok w) = .bad f r := rfl

@[simp] theorem both_ok_bad {α β : Type} (v : α) (f : Cause) (r : List Cause) :
    (Checked.ok v).both (.bad f r : Checked β) = .bad f r := rfl

@[simp] theorem both_bad_bad {α β : Type} (f g : Cause) (r q : List Cause) :
    (Checked.bad f r : Checked α).both (.bad g q : Checked β) = .bad f (r ++ g :: q) := rfl

@[simp] theorem causes_literal (v : Byte) : (literal v).causes = [] := rfl

@[simp] theorem causes_both {α β : Type} (c : Checked α) (d : Checked β) : (c.both d).causes = c.causes ++ d.causes := by
  cases c <;> cases d <;> simp [Checked.both, Checked.causes]

theorem causes_bind {α β : Type} (c : Checked α) (k : α → Checked β) (e : Cause) (h : e ∈ (c.bind k).causes) :
    e ∈ c.causes ∨ ∃ v, c = .ok v ∧ e ∈ (k v).causes := by
  cases c with
  | ok v => exact .inr ⟨v, rfl, h⟩
  | bad first rest => exact .inl h

theorem causes_map {α β : Type} (f : α → β) (c : Checked α) : (c.map f).causes = c.causes := by
  cases c <;> rfl

/-- `reg(i)` gives a value exactly for a register index (R85). -/
theorem reg_ok_iff (s : State) (i v : Byte) : reg s i = .ok v ↔ Holds s i v := by
  unfold reg Holds readX
  split
  · rename_i h; simp [h]
  · rename_i h; simp [h]

theorem reg_bad (s : State) (i : Byte) (h : NoRegister i) : reg s i = .bad (.registerOutOfRange i) [] := by
  unfold reg
  rw [dif_neg (by omega)]

@[simp] theorem checkReg_ok_iff (i : Byte) (r : Fin 8) : checkReg i = .ok r ↔ i.toNat = r := by
  unfold checkReg
  split
  · simp [Fin.ext_iff]
  · rename_i h
    have := r.isLt
    simp only [false_iff, reduceCtorEq]
    omega

theorem checkReg_bad (i : Byte) (h : NoRegister i) : checkReg i = .bad (.registerOutOfRange i) [] := by
  unfold checkReg
  rw [dif_neg (by omega)]

theorem selectorMax_le (m : SelectorMax) : m.toNat ≤ 8 := by cases m <;> simp [SelectorMax.toNat]

/-- `resolve` gives a bank exactly for a selector that names one (R45). -/
theorem resolve_ok_iff (s : State) (d b : Byte) : resolve s.params d s.active = .ok b ↔ SelectsBank s d b := by
  unfold resolve SelectsBank
  by_cases h0 : d = 0
  · subst h0; simp [eq_comm]
  · have h1 : d.toNat ≠ 0 := fun h => h0 (BitVec.eq_of_toNat_eq h)
    have hd := d.isLt
    rw [if_neg h0]
    split
    · rename_i h
      have hsub : (d - 1).toNat = d.toNat - 1 := by
        rw [BitVec.toNat_sub]; simp; omega
      simp only [Checked.ok.injEq, h0, false_and, false_or]
      constructor
      · rintro rfl; omega
      · rintro ⟨-, -, h3⟩; exact BitVec.eq_of_toNat_eq (by omega)
    · rename_i h
      simp only [reduceCtorEq, false_iff, not_or, h0, false_and, not_false_eq_true, true_and]
      omega

theorem resolve_bad (s : State) (d : Byte) (h : NoBank s d) :
    resolve s.params d s.active = .bad (.bankOutOfRange d) [] := by
  unfold resolve NoBank at *
  have h0 : d ≠ 0 := by rintro rfl; simp at h
  rw [if_neg h0, if_neg (by omega)]

/-- `advance()` gives a `pc` exactly where the fall-through has one (R87, R88). -/
theorem fallThrough_ok_iff (s : State) (n : Byte) : fallThrough s = .ok n ↔ FallsTo s n := by
  have hp := s.pc.isLt
  have hn := n.isLt
  have h3 : (s.pc + 3).toNat = (s.pc.toNat + 3) % 256 := by simp [BitVec.toNat_add]
  unfold fallThrough FallsTo
  cases hE : s.params.pcEdge
  · by_cases h : s.pc.toNat + 3 > 255
    · simp only [h, if_true, reduceCtorEq, false_iff, false_and, or_false]; omega
    · simp only [h, if_false, Checked.ok.injEq, reduceCtorEq, false_and, or_false]
      constructor
      · rintro rfl; omega
      · intro e; exact BitVec.eq_of_toNat_eq (by omega)
  · simp only [Checked.ok.injEq, true_and]
    constructor
    · rintro rfl; omega
    · intro e; exact BitVec.eq_of_toNat_eq (by omega)

theorem fallThrough_bad (s : State) (h : FallsOff s) : fallThrough s = .bad (.pcOutOfBank s.pc) [] := by
  unfold fallThrough
  rw [h.1]
  simp only
  rw [if_pos (by omega)]

@[simp] theorem bankOfLiteralSel_ok_iff (s : State) (d : Sel) (b : Byte) :
    bankOfLiteralSel s d = .ok b ↔ SelectsBank s (d.setWidth 8) b := resolve_ok_iff s _ b

theorem holdsSel_iff (s : State) (rd : Sel) (v : Byte) : HoldsSel s rd v ↔ readX s (selIndex rd) = v := by
  have h : rd.toNat < 8 := rd.isLt
  simp [HoldsSel, readX, selIndex, h]

@[simp] theorem bankOfHeldSel_ok_iff (s : State) (rd : Sel) (b : Byte) :
    bankOfHeldSel s rd = .ok b ↔ ∃ d, HoldsSel s rd d ∧ SelectsBank s d b := by
  simp only [bankOfHeldSel, resolve_ok_iff, holdsSel_iff, exists_eq_left']

@[simp] theorem bankOfLiteral_ok_iff (s : State) (d b : Byte) : bankOfLiteral s d = .ok b ↔ SelectsBank s d b :=
  resolve_ok_iff s d b

@[simp] theorem bankOfHeld_ok_iff (s : State) (rd b : Byte) :
    bankOfHeld s rd = .ok b ↔ ∃ d, Holds s rd d ∧ SelectsBank s d b := by
  simp [bankOfHeld, reg_ok_iff, resolve_ok_iff]

@[simp] theorem literal_ok_iff (v w : Byte) : literal v = .ok w ↔ v = w := by simp [literal]

@[simp] theorem source_ok_iff (s : State) (r v : Byte) : source s r = .ok v ↔ Holds s r v := reg_ok_iff s r v

@[simp] theorem dest_ok_iff (i : Byte) (r : Fin 8) : dest i = .ok r ↔ i.toNat = r := checkReg_ok_iff i r

/-! ## Faults -/

/-- A cause that the operands and the state justify: what instruction `i` begun in `s` may raise (R159). A bad
register index is one of its register operand bytes; a bad selector is the one it resolves, an overflow is that of its own operation and operands, and a fall-through is one that
it makes. -/
def fits (i : Instr) (s : State) (c : Cause) : Prop :=
  match c with
  | .registerOutOfRange r => r ∈ i.registerOperands ∧ NoRegister r
  | .bankOutOfRange d => resolvedSelector i s = some d ∧ NoBank s d
  | .arithmeticOverflow .add a b => AluOperands i s .add a b ∧ 255 < a.toNat + b.toNat
  | .arithmeticOverflow .sub a b => AluOperands i s .sub a b ∧ a.toNat < b.toNat
  | .arithmeticOverflow _ _ _ => False
  | .malformedCount _ => False
  | .malformedBank _ _ => False
  | .pcOutOfBank q => q = s.pc ∧ FallsOff s ∧ FallsThrough i s

/-- Every fault of a check fits. -/
def AllFit {α : Type} (i : Instr) (s : State) (c : Checked α) : Prop := ∀ e ∈ c.causes, fits i s e

theorem allFit_ok {α : Type} (i : Instr) (s : State) (v : α) : AllFit i s (.ok v : Checked α) := by
  intro e he; simp [Checked.causes] at he

theorem allFit_both {α β : Type} {i : Instr} {s : State} {c : Checked α} {d : Checked β} (hc : AllFit i s c) (hd : AllFit i s d) :
    AllFit i s (c.both d) := by
  intro e he
  rw [causes_both] at he
  exact (List.mem_append.mp he).elim (hc e) (hd e)

theorem allFit_bind {α β : Type} {i : Instr} {s : State} {c : Checked α} {k : α → Checked β} (hc : AllFit i s c)
    (hk : ∀ v, c = .ok v → AllFit i s (k v)) : AllFit i s (c.bind k) := by
  intro e he
  rcases causes_bind c k e he with h | ⟨v, hv, h⟩
  · exact hc e h
  · exact hk v hv e h

theorem allFit_map {α β : Type} {i : Instr} {s : State} {c : Checked α} (f : α → β) (hc : AllFit i s c) : AllFit i s (c.map f) := by
  intro e he; rw [causes_map] at he; exact hc e he

theorem allFit_reg {i : Instr} (s : State) (r : Byte) (hr : r ∈ i.registerOperands) : AllFit i s (reg s r) := by
  intro e he
  by_cases h : r.toNat < 8
  · simp [reg, h] at he
  · have hn : NoRegister r := by simp only [NoRegister]; omega
    rw [reg_bad s r hn] at he
    simp only [causes_bad, List.mem_singleton] at he
    subst he; exact ⟨hr, hn⟩

theorem allFit_dest {i : Instr} (s : State) (r : Byte) (hr : r ∈ i.registerOperands) : AllFit i s (dest r) := by
  intro e he
  by_cases h : r.toNat < 8
  · simp [dest, checkReg, h] at he
  · have hn : NoRegister r := by simp only [NoRegister]; omega
    rw [dest, checkReg_bad r hn] at he
    simp only [causes_bad, List.mem_singleton] at he
    subst he; exact ⟨hr, hn⟩

theorem allFit_resolve {i : Instr} (s : State) (d : Byte)
    (hd : resolvedSelector i s = some d) : AllFit i s (resolve s.params d s.active) := by
  intro e he
  by_cases h : NoBank s d
  · rw [resolve_bad s d h] at he
    simp only [Checked.causes, List.mem_singleton] at he
    subst he; exact ⟨hd, h⟩
  · unfold resolve at he
    simp only [NoBank, not_lt] at h
    split at he
    · simp [Checked.causes] at he
    · simp [Checked.causes] at he

theorem allFit_fallThrough {i : Instr} {s : State} (hf : FallsThrough i s) : AllFit i s (fallThrough s) := by
  intro e he
  by_cases h : FallsOff s
  · rw [fallThrough_bad s h] at he
    simp only [Checked.causes, List.mem_singleton] at he
    subst he; exact ⟨rfl, h, hf⟩
  · unfold fallThrough at he
    unfold FallsOff at h
    cases hE : s.params.pcEdge <;> simp only [hE, true_and, reduceCtorEq, false_and] at he h
    · rw [if_neg (by omega)] at he; simp [Checked.causes] at he
    · simp [Checked.causes] at he

theorem allFit_alu {i : Instr} {s : State} {op : AluOp} {a b : Byte} (ho : AluOperands i s op a b) : AllFit i s (alu op a b) := by
  intro e he
  cases op <;> simp only [alu] at he
  · split at he
    · simp only [Checked.causes, List.mem_singleton] at he; subst he; exact ⟨ho, by assumption⟩
    · simp [Checked.causes] at he
  · split at he
    · simp only [Checked.causes, List.mem_singleton] at he; subst he; exact ⟨ho, by assumption⟩
    · simp [Checked.causes] at he
  all_goals simp [Checked.causes] at he

/-- A selector packed in 3 bits always names a bank (R46). -/
theorem resolve_packed (s : State) (d : Sel) : ¬ NoBank s (d.setWidth 8) := by
  have hd : d.toNat < 8 := d.isLt
  have hm : 7 ≤ s.params.selectorMax.toNat := by cases s.params.selectorMax <;> decide
  have e : (d.setWidth 8).toNat = d.toNat := by simp; omega
  simp only [NoBank]; omega

theorem allFit_bankOfLiteralSel {i : Instr} (s : State) (d : Sel) (h : resolvedSelector i s = some (d.setWidth 8)) :
    AllFit i s (bankOfLiteralSel s d) := allFit_resolve s _ h

theorem allFit_bankOfHeldSel {i : Instr} (s : State) (rd : Sel)
    (h : resolvedSelector i s = some (readX s (selIndex rd))) : AllFit i s (bankOfHeldSel s rd) := allFit_resolve s _ h

theorem allFit_bankOfLiteral {i : Instr} (s : State) (d : Byte) (h : resolvedSelector i s = some d) :
    AllFit i s (bankOfLiteral s d) := allFit_resolve s d h

theorem allFit_bankOfHeld {i : Instr} (s : State) (rd : Byte) (hr : rd ∈ i.registerOperands)
    (h : resolvedSelector i s = s.x[rd.toNat]?) : AllFit i s (bankOfHeld s rd) :=
  allFit_bind (allFit_reg s rd hr) (fun d hd => allFit_resolve s d (h.trans ((reg_ok_iff s rd d).mp hd)))

theorem allFit_literal {i : Instr} (s : State) (v : Byte) : AllFit i s (literal v) := allFit_ok i s v

theorem allFit_source {i : Instr} (s : State) (r : Byte) (hr : r ∈ i.registerOperands) : AllFit i s (source s r) :=
  allFit_reg s r hr

theorem allFit_untaken {i : Instr} {s : State} {taken : Byte → Bool} {c : Checked Byte}
    (hf : ∀ v, c = .ok v → taken v = false → FallsThrough i s) : AllFit i s (untaken s taken c) := by
  cases c with
  | ok v =>
    simp only [untaken]
    split
    · exact allFit_ok i s none
    · exact allFit_map some (allFit_fallThrough (hf v rfl (by simpa using ‹¬ taken v = true›)))
  | bad first rest => exact allFit_ok i s none

/-- The fault reported is one of those that apply (I4). -/
theorem reported_mem (s : State) (op0 : Option Byte) (first : Cause) (rest : List Cause) :
    reported s op0 first rest ∈ first :: rest := by
  unfold reported
  split
  · simp
  · have hlt : Config.faultChoice (faultSite s op0) % (rest.length + 1) < (first :: rest).length :=
      Nat.mod_lt _ (Nat.succ_pos _)
    rw [List.getElem?_eq_getElem hlt, Option.getD_some]
    exact List.getElem_mem hlt

/-- Under the default order the first fault reached is reported (R91). -/
theorem reported_order (s : State) (op0 : Option Byte) (first : Cause) (rest : List Cause)
    (h : s.params.faultPriority = .order) : reported s op0 first rest = first := by
  simp [reported, h]

/-- A lone fault is reported under every `FAULT_PRIORITY`. -/
theorem reported_single (s : State) (op0 : Option Byte) (c : Cause) : reported s op0 c [] = c := by
  simpa using reported_mem s op0 c []

/-- A fault of instruction `i` begun in `s`, for a reason that fits. -/
def FaultOf (i : Instr) (s t : State) : Prop :=
  ∃ c, fits i s c ∧ t = takeFault s (some (opcode s.params i)) c

/-- Everything `commit` can do. -/
theorem commit_next {α : Type} {i : Instr} {s t : State} {c : Checked α} {k : α → StepOutcome}
    (hfit : AllFit i s c) (h : commit i s c k = .next t) :
    (∃ v, c = .ok v ∧ k v = .next t) ∨ FaultOf i s t := by
  cases c with
  | ok v => exact .inl ⟨v, rfl, h⟩
  | bad first rest =>
    simp only [commit, Host.Outcome.next.injEq] at h
    exact .inr ⟨_, hfit _ (reported_mem s _ first rest), h.symm⟩

@[simp] theorem commit_ok {α : Type} (i : Instr) (s : State) (v : α) (k : α → StepOutcome) :
    commit i s (.ok v) k = k v := rfl

/-! ## Everything the shared instruction operations can do -/

theorem saveWith_next {i : Instr} {s t : State} {bank index value : Checked Byte} (hb : AllFit i s bank)
    (hi : AllFit i s index) (hv : AllFit i s value) (hf : FallsThrough i s) (h : saveWith i s bank index value = .next t) :
    (∃ b a v n, bank = .ok b ∧ index = .ok a ∧ value = .ok v ∧ FallsTo s n ∧ bankExists b = true
      ∧ t = setPc (memWrite s b a v) n) ∨ FaultOf i s t := by
  refine (commit_next (allFit_both hb (allFit_both hi (allFit_both hv (allFit_fallThrough hf)))) h).imp ?_ id
  rintro ⟨⟨b, a, v, n⟩, hc, hk⟩
  simp only [both_ok_iff, fallThrough_ok_iff] at hc
  obtain ⟨h1, h2, h3, h4⟩ := hc
  by_cases he : bankExists b = true
  · simp only [he, if_true, Host.Outcome.next.injEq] at hk
    exact ⟨b, a, v, n, h1, h2, h3, h4, he, hk.symm⟩
  · simp [he] at hk

theorem loadWith_next {i : Instr} {s t : State} {bank index : Checked Byte} {dst : Checked (Fin 8)}
    (hb : AllFit i s bank) (hi : AllFit i s index) (hd : AllFit i s dst) (hf : FallsThrough i s)
    (h : loadWith i s bank index dst = .next t) :
    (∃ b a r n, bank = .ok b ∧ index = .ok a ∧ dst = .ok r ∧ FallsTo s n ∧ bankExists b = true
      ∧ t = setPc (writeX s r (memRead s b a)) n) ∨ FaultOf i s t := by
  refine (commit_next (allFit_both hb (allFit_both hi (allFit_both hd (allFit_fallThrough hf)))) h).imp ?_ id
  rintro ⟨⟨b, a, r, n⟩, hc, hk⟩
  simp only [both_ok_iff, fallThrough_ok_iff] at hc
  obtain ⟨h1, h2, h3, h4⟩ := hc
  by_cases he : bankExists b = true
  · simp only [he, if_true, Host.Outcome.next.injEq] at hk
    exact ⟨b, a, r, n, h1, h2, h3, h4, he, hk.symm⟩
  · simp [he] at hk

theorem setWith_next {i : Instr} {s t : State} {dst : Checked (Fin 8)} {value : Checked Byte} (hd : AllFit i s dst)
    (hv : AllFit i s value) (hf : FallsThrough i s) (h : setWith i s dst value = .next t) :
    (∃ r v n, dst = .ok r ∧ value = .ok v ∧ FallsTo s n ∧ t = setPc (writeX s r v) n) ∨ FaultOf i s t := by
  refine (commit_next (allFit_both hd (allFit_both hv (allFit_fallThrough hf))) h).imp ?_ id
  rintro ⟨⟨r, v, n⟩, hc, hk⟩
  simp only [both_ok_iff, fallThrough_ok_iff] at hc
  exact ⟨r, v, n, hc.1, hc.2.1, hc.2.2, (by simpa using hk.symm)⟩

theorem aluWith_next {i : Instr} {s t : State} {op : AluOp} {a b : Checked Byte} (ha : AllFit i s a) (hb : AllFit i s b)
    (ho : ∀ u v, a = .ok u → b = .ok v → AluOperands i s op u v) (hf : FallsThrough i s)
    (h : aluWith i s op a b = .next t) :
    (∃ u v r n, a = .ok u ∧ b = .ok v ∧ alu op u v = .ok r ∧ FallsTo s n ∧ t = setPc (writeX s 0 r) n)
      ∨ FaultOf i s t := by
  refine (commit_next (allFit_both (allFit_bind (allFit_both ha hb) (fun q hq => allFit_alu (ho q.1 q.2 ((both_ok_iff a b q).mp hq).1 ((both_ok_iff a b q).mp hq).2)))
    (allFit_fallThrough hf)) h).imp ?_ id
  rintro ⟨⟨r, n⟩, hc, hk⟩
  simp only [both_ok_iff, bind_ok_iff, fallThrough_ok_iff] at hc
  obtain ⟨⟨⟨u, v⟩, ⟨h1, h2⟩, h3⟩, h4⟩ := hc
  exact ⟨u, v, r, n, h1, h2, h3, h4, (by simpa using hk.symm)⟩

theorem compareWith_next {i : Instr} {s t : State} {rel : CmpRel} {a b : Checked Byte} (ha : AllFit i s a)
    (hb : AllFit i s b) (hf : FallsThrough i s) (h : compareWith i s rel a b = .next t) :
    (∃ u v n, a = .ok u ∧ b = .ok v ∧ FallsTo s n ∧ t = setPc (writeX s 0 (cmpResult rel u v)) n) ∨ FaultOf i s t := by
  refine (commit_next (allFit_both (allFit_both ha hb) (allFit_fallThrough hf)) h).imp ?_ id
  rintro ⟨⟨⟨u, v⟩, n⟩, hc, hk⟩
  simp only [both_ok_iff, fallThrough_ok_iff] at hc
  exact ⟨u, v, n, hc.1.1, hc.1.2, hc.2, (by simpa using hk.symm)⟩

/-- The fall-through of a conditional jump whose condition is readable. -/
theorem untaken_ok_iff (s : State) (taken : Byte → Bool) (v : Byte) (f : Option Byte) :
    untaken s taken (.ok v) = .ok f ↔
      (taken v = true ∧ f = none) ∨ (taken v = false ∧ ∃ n, FallsTo s n ∧ f = some n) := by
  cases ht : taken v <;> simp [untaken, ht, fallThrough_ok_iff, eq_comm]

theorem branchWith_next {i : Instr} {s t : State} {taken : Byte → Bool} {bank c target : Checked Byte}
    (hb : AllFit i s bank) (hc : AllFit i s c) (ht : AllFit i s target)
    (hf : ∀ v, c = .ok v → taken v = false → FallsThrough i s) (h : branchWith i s taken bank c target = .next t) :
    (∃ b v a, bank = .ok b ∧ c = .ok v ∧ target = .ok a ∧
      ((taken v = true ∧ t = setPc (setActive s b) a) ∨ (taken v = false ∧ ∃ n, FallsTo s n ∧ t = setPc s n)))
      ∨ FaultOf i s t := by
  refine (commit_next (allFit_both hb (allFit_both hc (allFit_both ht (allFit_untaken hf)))) h).imp ?_ id
  rintro ⟨⟨b, v, a, f⟩, hq, hk⟩
  simp only [both_ok_iff] at hq
  obtain ⟨h1, h2, h3, h4⟩ := hq
  refine ⟨b, v, a, h1, h2, h3, ?_⟩
  rw [h2] at h4
  rcases (untaken_ok_iff s taken v f).mp h4 with ⟨h5, rfl⟩ | ⟨h5, n, h6, rfl⟩
  · exact .inl ⟨h5, by simpa using hk.symm⟩
  · exact .inr ⟨h5, n, h6, by simpa using hk.symm⟩

theorem jumpWith_next {i : Instr} {s t : State} {bank target : Checked Byte} (hb : AllFit i s bank)
    (ht : AllFit i s target) (h : jumpWith i s bank target = .next t) :
    (∃ b a, bank = .ok b ∧ target = .ok a ∧ t = setPc (setActive s b) a) ∨ FaultOf i s t := by
  refine (commit_next (allFit_both hb ht) h).imp ?_ id
  rintro ⟨⟨b, a⟩, hc, hk⟩
  simp only [both_ok_iff] at hc
  exact ⟨b, a, hc.1, hc.2, (by simpa using hk.symm)⟩

/-! ## What an instruction does where its operands are good, and that it faults where one is not -/

theorem saveWith_ok {i : Instr} {s : State} {bank index value : Checked Byte} {b a v n : Byte} (h1 : bank = .ok b)
    (h2 : index = .ok a) (h3 : value = .ok v) (h4 : FallsTo s n) (h5 : b.toNat < 8) :
    saveWith i s bank index value = .next (setPc (memWrite s b a v) n) := by
  have h4' := (fallThrough_ok_iff s n).mpr h4
  simp [saveWith, commit, h1, h2, h3, h4', Checked.both, bankExists, h5]

theorem loadWith_ok {i : Instr} {s : State} {bank index : Checked Byte} {dst : Checked (Fin 8)} {b a n : Byte}
    {r : Fin 8} (h1 : bank = .ok b) (h2 : index = .ok a) (h3 : dst = .ok r) (h4 : FallsTo s n) (h5 : b.toNat < 8) :
    loadWith i s bank index dst = .next (setPc (writeX s r (memRead s b a)) n) := by
  have h4' := (fallThrough_ok_iff s n).mpr h4
  simp [loadWith, commit, h1, h2, h3, h4', Checked.both, bankExists, h5]

theorem setWith_ok {i : Instr} {s : State} {dst : Checked (Fin 8)} {value : Checked Byte} {v n : Byte} {r : Fin 8}
    (h1 : dst = .ok r) (h2 : value = .ok v) (h3 : FallsTo s n) :
    setWith i s dst value = .next (setPc (writeX s r v) n) := by
  have h3' := (fallThrough_ok_iff s n).mpr h3
  simp [setWith, commit, h1, h2, h3', Checked.both]

theorem aluWith_ok {i : Instr} {s : State} {op : AluOp} {a b : Checked Byte} {u v r n : Byte} (h1 : a = .ok u)
    (h2 : b = .ok v) (h3 : alu op u v = .ok r) (h4 : FallsTo s n) :
    aluWith i s op a b = .next (setPc (writeX s 0 r) n) := by
  have h4' := (fallThrough_ok_iff s n).mpr h4
  simp [aluWith, commit, h1, h2, h3, h4', Checked.both, Checked.bind]

theorem compareWith_ok {i : Instr} {s : State} {rel : CmpRel} {a b : Checked Byte} {u v n : Byte} (h1 : a = .ok u)
    (h2 : b = .ok v) (h3 : FallsTo s n) :
    compareWith i s rel a b = .next (setPc (writeX s 0 (cmpResult rel u v)) n) := by
  have h3' := (fallThrough_ok_iff s n).mpr h3
  simp [compareWith, commit, h1, h2, h3', Checked.both]

theorem branchWith_taken {i : Instr} {s : State} {taken : Byte → Bool} {bank c target : Checked Byte} {b v a : Byte}
    (h1 : bank = .ok b) (h2 : c = .ok v) (h3 : target = .ok a) (h4 : taken v = true) :
    branchWith i s taken bank c target = .next (setPc (setActive s b) a) := by
  simp [branchWith, commit, h1, h2, h3, untaken, h4, Checked.both]

theorem branchWith_untaken {i : Instr} {s : State} {taken : Byte → Bool} {bank c target : Checked Byte}
    {b v a n : Byte} (h1 : bank = .ok b) (h2 : c = .ok v) (h3 : target = .ok a) (h4 : taken v = false)
    (h5 : FallsTo s n) : branchWith i s taken bank c target = .next (setPc s n) := by
  have h5' := (fallThrough_ok_iff s n).mpr h5
  simp [branchWith, commit, h1, h2, h3, untaken, h4, h5', Checked.both, Checked.map]

theorem jumpWith_ok {i : Instr} {s : State} {bank target : Checked Byte} {b a : Byte} (h1 : bank = .ok b)
    (h2 : target = .ok a) : jumpWith i s bank target = .next (setPc (setActive s b) a) := by
  simp [jumpWith, commit, h1, h2, Checked.both]

/-- Under the default order, the fault of the check reached first is the one taken (R91). -/
theorem commit_faultsWith {α : Type} {i : Instr} {s : State} {c : Checked α} {k : α → StepOutcome} {e : Cause}
    (ho : s.params.faultPriority = .order) (hc : c.causes.head? = some e) :
    FaultsWith (commit i s c k) s (some (opcode s.params i)) e := by
  cases c with
  | ok v => simp [Checked.causes] at hc
  | bad first rest =>
    simp only [Checked.causes, List.head?_cons, Option.some.injEq] at hc
    refine ⟨_, rfl, ?_⟩
    simp [reported_order _ _ _ _ ho, hc]

/-- A lone fault is the one taken under every FAULT_PRIORITY. -/
theorem commit_faultsWith_single {α : Type} {i : Instr} {s : State} {c : Checked α} {k : α → StepOutcome} {e : Cause}
    (hc : c.causes = [e]) : FaultsWith (commit i s c k) s (some (opcode s.params i)) e := by
  cases c with
  | ok v => simp [Checked.causes] at hc
  | bad first rest =>
    simp only [Checked.causes, List.cons.injEq] at hc
    obtain ⟨rfl, rfl⟩ := hc
    exact ⟨_, rfl, by simp [reported_single]⟩

/-- Any failed check ends the instruction in a fault, under every FAULT_PRIORITY. -/
theorem commit_faults {α : Type} {i : Instr} {s : State} {c : Checked α} {k : α → StepOutcome}
    (hc : c.causes ≠ []) : Faults (commit i s c k) := by
  cases c with
  | ok v => simp [Checked.causes] at hc
  | bad first rest => exact ⟨_, _, rfl, rfl⟩

end Sys2Proof.Machine
end

