-- ==== Sys2Proof/Laws/Exec.lean ====
section
/-! SUPPORT. Everything an instruction can do, said once over all constructors of Instr. -/

namespace Sys2Proof.Machine

/-- What an instruction that raises no fault does (R89): it stores one byte, or writes one register, or branches or
jumps, or falls through a branch, or halts. -/
inductive Effect (i : Instr) (s t : State) : Prop where
  | store (b a v n : Byte) (target : storeTarget i s = some (.ok (b, a))) (bank : bankExists b = true)
      (next : FallsTo s n) (result : t = setPc (memWrite s b a v) n)
  | write (r v n : Byte) (j : Fin 8) (dst : i.destination = some r) (reg : r.toNat = j)
      (next : FallsTo s n) (result : t = setPc (writeX s j v) n)
  | jump (d b a : Byte) (kind : i.isJump = true) (bank : SelectsBank s d b) (result : t = setPc (setActive s b) a)
  | fall (n : Byte) (kind : i.isJump = true) (next : FallsTo s n) (result : t = setPc s n)
  | halt (kind : i.isHalt = true) (result : t = setStatus s .halted)

theorem effect_of_save {i : Instr} {s t : State} {bank index value : Checked Byte}
    (htgt : storeTarget i s = some (bank.both index))
    (h : (∃ b a v n, bank = .ok b ∧ index = .ok a ∧ value = .ok v ∧ FallsTo s n ∧ bankExists b = true
      ∧ t = setPc (memWrite s b a v) n) ∨ FaultOf i s t) : Effect i s t ∨ FaultOf i s t := by
  refine h.imp ?_ id
  rintro ⟨b, a, v, n, h1, h2, -, h4, h5, h6⟩
  exact .store b a v n (by simp [htgt, h1, h2, Checked.both]) h5 h4 h6

theorem effect_of_load {i : Instr} {s t : State} {bank index : Checked Byte} {r' : Byte}
    (hd : i.destination = some r')
    (h : (∃ b a r n, bank = .ok b ∧ index = .ok a ∧ dest r' = .ok r ∧ FallsTo s n ∧ bankExists b = true
      ∧ t = setPc (writeX s r (memRead s b a)) n) ∨ FaultOf i s t) : Effect i s t ∨ FaultOf i s t := by
  refine h.imp ?_ id
  rintro ⟨b, a, r, n, -, -, h3, h4, -, h6⟩
  exact .write r' _ n r hd ((dest_ok_iff _ _).mp h3) h4 h6

theorem effect_of_set {i : Instr} {s t : State} {value : Checked Byte} {r' : Byte} (hd : i.destination = some r')
    (h : (∃ r v n, dest r' = .ok r ∧ value = .ok v ∧ FallsTo s n ∧ t = setPc (writeX s r v) n) ∨ FaultOf i s t) :
    Effect i s t ∨ FaultOf i s t := by
  refine h.imp ?_ id
  rintro ⟨r, v, n, h1, -, h3, h4⟩
  exact .write r' v n r hd ((dest_ok_iff _ _).mp h1) h3 h4

theorem effect_of_alu {i : Instr} {s t : State} {op : AluOp} {a b : Checked Byte} (hd : i.destination = some 0)
    (h : (∃ u v r n, a = .ok u ∧ b = .ok v ∧ alu op u v = .ok r ∧ FallsTo s n ∧ t = setPc (writeX s 0 r) n)
      ∨ FaultOf i s t) : Effect i s t ∨ FaultOf i s t := by
  refine h.imp ?_ id
  rintro ⟨u, v, r, n, -, -, -, h4, h5⟩
  exact .write 0 r n 0 hd rfl h4 h5

theorem effect_of_compare {i : Instr} {s t : State} {rel : CmpRel} {a b : Checked Byte} (hd : i.destination = some 0)
    (h : (∃ u v n, a = .ok u ∧ b = .ok v ∧ FallsTo s n ∧ t = setPc (writeX s 0 (cmpResult rel u v)) n) ∨ FaultOf i s t) :
    Effect i s t ∨ FaultOf i s t := by
  refine h.imp ?_ id
  rintro ⟨u, v, n, -, -, h3, h4⟩
  exact .write 0 _ n 0 hd rfl h3 h4

theorem effect_of_branch {i : Instr} {s t : State} {taken : Byte → Bool} {bank c target : Checked Byte}
    (hk : i.isJump = true) (hbank : ∀ b, bank = .ok b → ∃ d, SelectsBank s d b)
    (h : (∃ b v a, bank = .ok b ∧ c = .ok v ∧ target = .ok a ∧
      ((taken v = true ∧ t = setPc (setActive s b) a) ∨ (taken v = false ∧ ∃ n, FallsTo s n ∧ t = setPc s n)))
      ∨ FaultOf i s t) : Effect i s t ∨ FaultOf i s t := by
  refine h.imp ?_ id
  rintro ⟨b, v, a, h1, -, -, ⟨-, h4⟩ | ⟨-, n, h4, h5⟩⟩
  · obtain ⟨d, hd⟩ := hbank b h1
    exact .jump d b a hk hd h4
  · exact .fall n hk h4 h5

theorem effect_of_jump {i : Instr} {s t : State} {bank target : Checked Byte} (hk : i.isJump = true)
    (hbank : ∀ b, bank = .ok b → ∃ d, SelectsBank s d b)
    (h : (∃ b a, bank = .ok b ∧ target = .ok a ∧ t = setPc (setActive s b) a) ∨ FaultOf i s t) :
    Effect i s t ∨ FaultOf i s t := by
  refine h.imp ?_ id
  rintro ⟨b, a, h1, -, h3⟩
  obtain ⟨d, hd⟩ := hbank b h1
  exact .jump d b a hk hd h3

theorem effect_of_halt {i : Instr} {s t : State} (hk : i.isHalt = true) (h : haltNow s = .next t) :
    Effect i s t ∨ FaultOf i s t := by
  simp only [haltNow, Host.Outcome.next.injEq] at h
  exact .inl (.halt hk h.symm)

theorem selects_of_literalSel {s : State} {d : Sel} (b : Byte) (h : bankOfLiteralSel s d = .ok b) :
    ∃ d, SelectsBank s d b := ⟨_, (bankOfLiteralSel_ok_iff s d b).mp h⟩

theorem selects_of_heldSel {s : State} {rd : Sel} (b : Byte) (h : bankOfHeldSel s rd = .ok b) :
    ∃ d, SelectsBank s d b := ((bankOfHeldSel_ok_iff s rd b).mp h).imp fun _ h => h.2

theorem selects_of_literal {s : State} {d : Byte} (b : Byte) (h : bankOfLiteral s d = .ok b) :
    ∃ d, SelectsBank s d b := ⟨_, (bankOfLiteral_ok_iff s d b).mp h⟩

theorem selects_of_held {s : State} {rd : Byte} (b : Byte) (h : bankOfHeld s rd = .ok b) :
    ∃ d, SelectsBank s d b := ((bankOfHeld_ok_iff s rd b).mp h).imp fun _ h => h.2

theorem untaken_jz {s : State} {c v : Byte} (h : Holds s c v) (ht : takenIfZero v = false) :
    ∃ v, Holds s c v ∧ v ≠ 0 := ⟨v, h, by simpa [takenIfZero] using ht⟩

theorem untaken_jnz {s : State} {c v : Byte} (h : Holds s c v) (ht : takenIfNonZero v = false) : Holds s c 0 := by
  have : v = 0 := by simpa [takenIfNonZero] using ht
  rwa [this] at h

/-- Everything an instruction can do: its effect, or a fault whose reason fits. -/
theorem exec_cases {i : Instr} {s t : State} (h : exec i s = .next t) : Effect i s t ∨ FaultOf i s t := by
  cases i with
  | endZ _ _ => exact effect_of_halt rfl h
  | unassigned01 _ _ => exact effect_of_halt rfl h
  | unassigned02To03 _ _ _ => exact effect_of_halt rfl h
  | unassigned04To07 _ _ _ => exact effect_of_halt rfl h
  | saveDvv d idx v => exact effect_of_save rfl (saveWith_next (allFit_bankOfLiteralSel s d rfl) (allFit_literal s idx) (allFit_literal s v) ⟨rfl, rfl⟩ h)
  | saveDvr d idx r => exact effect_of_save rfl (saveWith_next (allFit_bankOfLiteralSel s d rfl) (allFit_literal s idx) (allFit_source s r (by simp [Instr.registerOperands])) ⟨rfl, rfl⟩ h)
  | saveDrv d ri v => exact effect_of_save rfl (saveWith_next (allFit_bankOfLiteralSel s d rfl) (allFit_source s ri (by simp [Instr.registerOperands])) (allFit_literal s v) ⟨rfl, rfl⟩ h)
  | saveDrr d ri r => exact effect_of_save rfl (saveWith_next (allFit_bankOfLiteralSel s d rfl) (allFit_source s ri (by simp [Instr.registerOperands])) (allFit_source s r (by simp [Instr.registerOperands])) ⟨rfl, rfl⟩ h)
  | saveRvv rd idx v => exact effect_of_save rfl (saveWith_next (allFit_bankOfHeldSel s rd rfl) (allFit_literal s idx) (allFit_literal s v) ⟨rfl, rfl⟩ h)
  | saveRvr rd idx r => exact effect_of_save rfl (saveWith_next (allFit_bankOfHeldSel s rd rfl) (allFit_literal s idx) (allFit_source s r (by simp [Instr.registerOperands])) ⟨rfl, rfl⟩ h)
  | saveRrv rd ri v => exact effect_of_save rfl (saveWith_next (allFit_bankOfHeldSel s rd rfl) (allFit_source s ri (by simp [Instr.registerOperands])) (allFit_literal s v) ⟨rfl, rfl⟩ h)
  | saveRrr rd ri r => exact effect_of_save rfl (saveWith_next (allFit_bankOfHeldSel s rd rfl) (allFit_source s ri (by simp [Instr.registerOperands])) (allFit_source s r (by simp [Instr.registerOperands])) ⟨rfl, rfl⟩ h)
  | loadDvr d idx r => exact effect_of_load rfl (loadWith_next (allFit_bankOfLiteralSel s d rfl) (allFit_literal s idx) (allFit_dest s r (by simp [Instr.registerOperands])) ⟨rfl, rfl⟩ h)
  | loadDrr d ri r => exact effect_of_load rfl (loadWith_next (allFit_bankOfLiteralSel s d rfl) (allFit_source s ri (by simp [Instr.registerOperands])) (allFit_dest s r (by simp [Instr.registerOperands])) ⟨rfl, rfl⟩ h)
  | loadRvr rd idx r => exact effect_of_load rfl (loadWith_next (allFit_bankOfHeldSel s rd rfl) (allFit_literal s idx) (allFit_dest s r (by simp [Instr.registerOperands])) ⟨rfl, rfl⟩ h)
  | loadRrr rd ri r => exact effect_of_load rfl (loadWith_next (allFit_bankOfHeldSel s rd rfl) (allFit_source s ri (by simp [Instr.registerOperands])) (allFit_dest s r (by simp [Instr.registerOperands])) ⟨rfl, rfl⟩ h)
  | addRv r v => exact effect_of_alu rfl (aluWith_next (allFit_source s r (by simp [Instr.registerOperands])) (allFit_literal s v) (fun _ _ h1 h2 => ⟨rfl, (source_ok_iff s r _).mp h1, (literal_ok_iff v _).mp h2⟩) ⟨rfl, rfl⟩ h)
  | addRr r r2 => exact effect_of_alu rfl (aluWith_next (allFit_source s r (by simp [Instr.registerOperands])) (allFit_source s r2 (by simp [Instr.registerOperands])) (fun _ _ h1 h2 => ⟨rfl, (source_ok_iff s r _).mp h1, (source_ok_iff s r2 _).mp h2⟩) ⟨rfl, rfl⟩ h)
  | subRv r v => exact effect_of_alu rfl (aluWith_next (allFit_source s r (by simp [Instr.registerOperands])) (allFit_literal s v) (fun _ _ h1 h2 => ⟨rfl, (source_ok_iff s r _).mp h1, (literal_ok_iff v _).mp h2⟩) ⟨rfl, rfl⟩ h)
  | subRr r r2 => exact effect_of_alu rfl (aluWith_next (allFit_source s r (by simp [Instr.registerOperands])) (allFit_source s r2 (by simp [Instr.registerOperands])) (fun _ _ h1 h2 => ⟨rfl, (source_ok_iff s r _).mp h1, (source_ok_iff s r2 _).mp h2⟩) ⟨rfl, rfl⟩ h)
  | subVr v r => exact effect_of_alu rfl (aluWith_next (allFit_literal s v) (allFit_source s r (by simp [Instr.registerOperands])) (fun _ _ h1 h2 => ⟨rfl, (literal_ok_iff v _).mp h1, (source_ok_iff s r _).mp h2⟩) ⟨rfl, rfl⟩ h)
  | orRv r v => exact effect_of_alu rfl (aluWith_next (allFit_source s r (by simp [Instr.registerOperands])) (allFit_literal s v) (fun _ _ h1 h2 => ⟨rfl, (source_ok_iff s r _).mp h1, (literal_ok_iff v _).mp h2⟩) ⟨rfl, rfl⟩ h)
  | orRr r r2 => exact effect_of_alu rfl (aluWith_next (allFit_source s r (by simp [Instr.registerOperands])) (allFit_source s r2 (by simp [Instr.registerOperands])) (fun _ _ h1 h2 => ⟨rfl, (source_ok_iff s r _).mp h1, (source_ok_iff s r2 _).mp h2⟩) ⟨rfl, rfl⟩ h)
  | xorRv r v => exact effect_of_alu rfl (aluWith_next (allFit_source s r (by simp [Instr.registerOperands])) (allFit_literal s v) (fun _ _ h1 h2 => ⟨rfl, (source_ok_iff s r _).mp h1, (literal_ok_iff v _).mp h2⟩) ⟨rfl, rfl⟩ h)
  | xorRr r r2 => exact effect_of_alu rfl (aluWith_next (allFit_source s r (by simp [Instr.registerOperands])) (allFit_source s r2 (by simp [Instr.registerOperands])) (fun _ _ h1 h2 => ⟨rfl, (source_ok_iff s r _).mp h1, (source_ok_iff s r2 _).mp h2⟩) ⟨rfl, rfl⟩ h)
  | norRv r v => exact effect_of_alu rfl (aluWith_next (allFit_source s r (by simp [Instr.registerOperands])) (allFit_literal s v) (fun _ _ h1 h2 => ⟨rfl, (source_ok_iff s r _).mp h1, (literal_ok_iff v _).mp h2⟩) ⟨rfl, rfl⟩ h)
  | norRr r r2 => exact effect_of_alu rfl (aluWith_next (allFit_source s r (by simp [Instr.registerOperands])) (allFit_source s r2 (by simp [Instr.registerOperands])) (fun _ _ h1 h2 => ⟨rfl, (source_ok_iff s r _).mp h1, (source_ok_iff s r2 _).mp h2⟩) ⟨rfl, rfl⟩ h)
  | andRv r v => exact effect_of_alu rfl (aluWith_next (allFit_source s r (by simp [Instr.registerOperands])) (allFit_literal s v) (fun _ _ h1 h2 => ⟨rfl, (source_ok_iff s r _).mp h1, (literal_ok_iff v _).mp h2⟩) ⟨rfl, rfl⟩ h)
  | andRr r r2 => exact effect_of_alu rfl (aluWith_next (allFit_source s r (by simp [Instr.registerOperands])) (allFit_source s r2 (by simp [Instr.registerOperands])) (fun _ _ h1 h2 => ⟨rfl, (source_ok_iff s r _).mp h1, (source_ok_iff s r2 _).mp h2⟩) ⟨rfl, rfl⟩ h)
  | grtRv r v => exact effect_of_compare rfl (compareWith_next (allFit_source s r (by simp [Instr.registerOperands])) (allFit_literal s v) ⟨rfl, rfl⟩ h)
  | grtRr r r2 => exact effect_of_compare rfl (compareWith_next (allFit_source s r (by simp [Instr.registerOperands])) (allFit_source s r2 (by simp [Instr.registerOperands])) ⟨rfl, rfl⟩ h)
  | lstRv r v => exact effect_of_compare rfl (compareWith_next (allFit_source s r (by simp [Instr.registerOperands])) (allFit_literal s v) ⟨rfl, rfl⟩ h)
  | lstRr r r2 => exact effect_of_compare rfl (compareWith_next (allFit_source s r (by simp [Instr.registerOperands])) (allFit_source s r2 (by simp [Instr.registerOperands])) ⟨rfl, rfl⟩ h)
  | greqtRv r v => exact effect_of_compare rfl (compareWith_next (allFit_source s r (by simp [Instr.registerOperands])) (allFit_literal s v) ⟨rfl, rfl⟩ h)
  | greqtRr r r2 => exact effect_of_compare rfl (compareWith_next (allFit_source s r (by simp [Instr.registerOperands])) (allFit_source s r2 (by simp [Instr.registerOperands])) ⟨rfl, rfl⟩ h)
  | lseqtRv r v => exact effect_of_compare rfl (compareWith_next (allFit_source s r (by simp [Instr.registerOperands])) (allFit_literal s v) ⟨rfl, rfl⟩ h)
  | lseqtRr r r2 => exact effect_of_compare rfl (compareWith_next (allFit_source s r (by simp [Instr.registerOperands])) (allFit_source s r2 (by simp [Instr.registerOperands])) ⟨rfl, rfl⟩ h)
  | eqlRv r v => exact effect_of_compare rfl (compareWith_next (allFit_source s r (by simp [Instr.registerOperands])) (allFit_literal s v) ⟨rfl, rfl⟩ h)
  | eqlRr r r2 => exact effect_of_compare rfl (compareWith_next (allFit_source s r (by simp [Instr.registerOperands])) (allFit_source s r2 (by simp [Instr.registerOperands])) ⟨rfl, rfl⟩ h)
  | neqlRv r v => exact effect_of_compare rfl (compareWith_next (allFit_source s r (by simp [Instr.registerOperands])) (allFit_literal s v) ⟨rfl, rfl⟩ h)
  | neqlRr r r2 => exact effect_of_compare rfl (compareWith_next (allFit_source s r (by simp [Instr.registerOperands])) (allFit_source s r2 (by simp [Instr.registerOperands])) ⟨rfl, rfl⟩ h)
  | setRv r v => exact effect_of_set rfl (setWith_next (allFit_dest s r (by simp [Instr.registerOperands])) (allFit_literal s v) ⟨rfl, rfl⟩ h)
  | setRr r r2 => exact effect_of_set rfl (setWith_next (allFit_dest s r (by simp [Instr.registerOperands])) (allFit_source s r2 (by simp [Instr.registerOperands])) ⟨rfl, rfl⟩ h)
  | jmpDv d t => exact effect_of_jump rfl selects_of_literal (jumpWith_next (allFit_bankOfLiteral s d rfl) (allFit_literal s t) h)
  | jmpDr d t => exact effect_of_jump rfl selects_of_literal (jumpWith_next (allFit_bankOfLiteral s d rfl) (allFit_source s t (by simp [Instr.registerOperands])) h)
  | jmpRv rd t => exact effect_of_jump rfl selects_of_held (jumpWith_next (allFit_bankOfHeld s rd (by simp [Instr.registerOperands]) rfl) (allFit_literal s t) h)
  | jmpRr rd t => exact effect_of_jump rfl selects_of_held (jumpWith_next (allFit_bankOfHeld s rd (by simp [Instr.registerOperands]) rfl) (allFit_source s t (by simp [Instr.registerOperands])) h)
  | unassigned87 _ _ => exact effect_of_halt rfl h
  | jzDrv d c t => exact effect_of_branch rfl selects_of_literalSel (branchWith_next (allFit_bankOfLiteralSel s d rfl) (allFit_source s c (by simp [Instr.registerOperands])) (allFit_literal s t) (fun v h1 h2 => untaken_jz ((source_ok_iff s c v).mp h1) h2) h)
  | jzDrr d c t => exact effect_of_branch rfl selects_of_literalSel (branchWith_next (allFit_bankOfLiteralSel s d rfl) (allFit_source s c (by simp [Instr.registerOperands])) (allFit_source s t (by simp [Instr.registerOperands])) (fun v h1 h2 => untaken_jz ((source_ok_iff s c v).mp h1) h2) h)
  | jzRrv rd c t => exact effect_of_branch rfl selects_of_heldSel (branchWith_next (allFit_bankOfHeldSel s rd rfl) (allFit_source s c (by simp [Instr.registerOperands])) (allFit_literal s t) (fun v h1 h2 => untaken_jz ((source_ok_iff s c v).mp h1) h2) h)
  | jzRrr rd c t => exact effect_of_branch rfl selects_of_heldSel (branchWith_next (allFit_bankOfHeldSel s rd rfl) (allFit_source s c (by simp [Instr.registerOperands])) (allFit_source s t (by simp [Instr.registerOperands])) (fun v h1 h2 => untaken_jz ((source_ok_iff s c v).mp h1) h2) h)
  | jnzDrv d c t => exact effect_of_branch rfl selects_of_literalSel (branchWith_next (allFit_bankOfLiteralSel s d rfl) (allFit_source s c (by simp [Instr.registerOperands])) (allFit_literal s t) (fun v h1 h2 => untaken_jnz ((source_ok_iff s c v).mp h1) h2) h)
  | jnzDrr d c t => exact effect_of_branch rfl selects_of_literalSel (branchWith_next (allFit_bankOfLiteralSel s d rfl) (allFit_source s c (by simp [Instr.registerOperands])) (allFit_source s t (by simp [Instr.registerOperands])) (fun v h1 h2 => untaken_jnz ((source_ok_iff s c v).mp h1) h2) h)
  | jnzRrv rd c t => exact effect_of_branch rfl selects_of_heldSel (branchWith_next (allFit_bankOfHeldSel s rd rfl) (allFit_source s c (by simp [Instr.registerOperands])) (allFit_literal s t) (fun v h1 h2 => untaken_jnz ((source_ok_iff s c v).mp h1) h2) h)
  | jnzRrr rd c t => exact effect_of_branch rfl selects_of_heldSel (branchWith_next (allFit_bankOfHeldSel s rd rfl) (allFit_source s c (by simp [Instr.registerOperands])) (allFit_source s t (by simp [Instr.registerOperands])) (fun v h1 h2 => untaken_jnz ((source_ok_iff s c v).mp h1) h2) h)
  | unassignedC8ToCF _ _ _ => exact effect_of_halt rfl h
  | unassignedD0ToDF _ _ _ => exact effect_of_halt rfl h
  | unassignedE0ToFF _ _ _ => exact effect_of_halt rfl h

/-! ## SAVE and LOAD of any mode, by the cell they name -/

/-- A SAVE whose operands are good completes. -/
theorem exec_save_ok {i : Instr} {s : State} {b a v n : Byte} (ht : storeTarget i s = some (.ok (b, a)))
    (hv : storedByte i s = some (.ok v)) (hn : FallsTo s n) (hb : b.toNat < 8) :
    exec i s = .next (setPc (memWrite s b a v) n) := by
  cases i <;> first
    | (simp only [storeTarget, storedByte, Option.some.injEq, both_ok_iff] at ht hv
       exact saveWith_ok ht.1 ht.2 hv hn hb)
    | cases ht

/-- What stores is a SAVE: it is no jump and no halt, and it writes no register. -/
theorem storeTarget_class {i : Instr} {s : State} {c : Checked (Byte × Byte)} (h : storeTarget i s = some c) :
    i.isJump = false ∧ i.isHalt = false ∧ i.destination = none := by
  cases i <;> first | exact ⟨rfl, rfl, rfl⟩ | cases h

/-- Everything a SAVE of a known byte to a known cell can do. -/
theorem exec_save_next {i : Instr} {s t : State} {b a v : Byte} (ht : storeTarget i s = some (.ok (b, a)))
    (hv : storedByte i s = some (.ok v)) (h : exec i s = .next t) :
    (∃ n, t = setPc (memWrite s b a v) n) ∨ FaultOf i s t := by
  refine (exec_cases h).imp (fun hc => ?_) id
  obtain ⟨hj, hh, hd⟩ := storeTarget_class ht
  cases hc with
  | store b' a' v' n tgt bank next _ =>
    rw [ht] at tgt
    cases tgt
    have := exec_save_ok ht hv next (by simpa [bankExists] using bank)
    exact ⟨n, Host.Outcome.next.inj (h.symm.trans this)⟩
  | write r _ _ _ dst _ _ _ => rw [hd] at dst; cases dst
  | jump _ _ _ kind _ _ => rw [hj] at kind; cases kind
  | fall _ kind _ _ => rw [hj] at kind; cases kind
  | halt kind _ => rw [hh] at kind; cases kind

/-- Everything a LOAD from a known cell can do. -/
theorem exec_load_next {i : Instr} {s t : State} {b a r : Byte} (hl : loadSource i s = some (.ok (b, a)))
    (hd : i.destination = some r) (h : exec i s = .next t) :
    (∃ (j : Fin 8) (n : Byte), r.toNat = j ∧ t = setPc (writeX s j (memRead s b a)) n) ∨ FaultOf i s t := by
  have key : ∀ {bank index : Checked Byte}, bank = .ok b → index = .ok a →
      ((∃ b' a' j n, bank = .ok b' ∧ index = .ok a' ∧ dest r = .ok j ∧ FallsTo s n ∧ bankExists b' = true
        ∧ t = setPc (writeX s j (memRead s b' a')) n) ∨ FaultOf i s t) →
      (∃ (j : Fin 8) (n : Byte), r.toNat = j ∧ t = setPc (writeX s j (memRead s b a)) n) ∨ FaultOf i s t := by
    rintro bank index rfl rfl h
    refine h.imp ?_ id
    rintro ⟨b', a', j, n, h1, h2, h3, -, -, h6⟩
    cases h1; cases h2
    exact ⟨j, n, (dest_ok_iff r j).mp h3, h6⟩
  cases i with
  | loadDvr d idx _ =>
    simp only [loadSource, Option.some.injEq, both_ok_iff] at hl
    cases hd
    exact key hl.1 hl.2 (loadWith_next (allFit_bankOfLiteralSel s d rfl) (allFit_literal s idx) (allFit_dest s r (by simp [Instr.registerOperands])) ⟨rfl, rfl⟩ h)
  | loadDrr d ri _ =>
    simp only [loadSource, Option.some.injEq, both_ok_iff] at hl
    cases hd
    exact key hl.1 hl.2 (loadWith_next (allFit_bankOfLiteralSel s d rfl) (allFit_source s ri (by simp [Instr.registerOperands])) (allFit_dest s r (by simp [Instr.registerOperands])) ⟨rfl, rfl⟩ h)
  | loadRvr rd idx _ =>
    simp only [loadSource, Option.some.injEq, both_ok_iff] at hl
    cases hd
    exact key hl.1 hl.2 (loadWith_next (allFit_bankOfHeldSel s rd rfl) (allFit_literal s idx) (allFit_dest s r (by simp [Instr.registerOperands])) ⟨rfl, rfl⟩ h)
  | loadRrr rd ri _ =>
    simp only [loadSource, Option.some.injEq, both_ok_iff] at hl
    cases hd
    exact key hl.1 hl.2 (loadWith_next (allFit_bankOfHeldSel s rd rfl) (allFit_source s ri (by simp [Instr.registerOperands])) (allFit_dest s r (by simp [Instr.registerOperands])) ⟨rfl, rfl⟩ h)
  | _ => cases hl

/-- Everything a step can do: only from a running state; the fetch edge, or the fetched instruction. -/
theorem step_cases {s t : State} (h : step s = .next t) :
    s.status = .running ∧
      ((fetchEdge s = true ∧ t = takeFault s none (.pcOutOfBank s.pc)) ∨
        (fetchEdge s = false ∧ bankExists s.active = true ∧
          (Effect (fetched s) s t ∨ FaultOf (fetched s) s t))) := by
  unfold step at h
  split at h
  · cases h
  · cases h
  · rename_i hr
    refine ⟨hr, ?_⟩
    split at h
    · rename_i he
      exact .inl ⟨he, by simpa using h.symm⟩
    · rename_i he
      split at h
      · rename_i hb
        exact .inr ⟨by simpa using he, hb, exec_cases h⟩
      · cases h

end Sys2Proof.Machine
end

