-- ==== Sys2Proof/Laws/PerInstr.lean ====
section
/-! SUPPORT. Statements made per instruction. Family TableRow: the word the encoder writes lies in the instruction's own row of
spec/opcode_table.json (its match and mask, written out here from the table), under the default parameters. -/

namespace Sys2Proof.Laws

/-- The row's `mask`, as spec/opcode_table.json has it. -/
def TableRow.mask : Instr → BitVec 24
  | .endZ _ _ => 0xFF0000
  | .unassigned01 _ _ => 0xFF0000
  | .unassigned02To03 _ _ _ => 0xFE0000
  | .unassigned04To07 _ _ _ => 0xFC0000
  | .saveDvv _ _ _ => 0xF80000
  | .saveDvr _ _ _ => 0xF80000
  | .saveDrv _ _ _ => 0xF80000
  | .saveDrr _ _ _ => 0xF80000
  | .saveRvv _ _ _ => 0xF80000
  | .saveRvr _ _ _ => 0xF80000
  | .saveRrv _ _ _ => 0xF80000
  | .saveRrr _ _ _ => 0xF80000
  | .loadDvr _ _ _ => 0xF80000
  | .loadDrr _ _ _ => 0xF80000
  | .loadRvr _ _ _ => 0xF80000
  | .loadRrr _ _ _ => 0xF80000
  | .addRv _ _ => 0xFF0000
  | .addRr _ _ => 0xFF0000
  | .subRv _ _ => 0xFF0000
  | .subRr _ _ => 0xFF0000
  | .subVr _ _ => 0xFF0000
  | .orRv _ _ => 0xFF0000
  | .orRr _ _ => 0xFF0000
  | .xorRv _ _ => 0xFF0000
  | .xorRr _ _ => 0xFF0000
  | .norRv _ _ => 0xFF0000
  | .norRr _ _ => 0xFF0000
  | .andRv _ _ => 0xFF0000
  | .andRr _ _ => 0xFF0000
  | .grtRv _ _ => 0xFF0000
  | .grtRr _ _ => 0xFF0000
  | .lstRv _ _ => 0xFF0000
  | .lstRr _ _ => 0xFF0000
  | .greqtRv _ _ => 0xFF0000
  | .greqtRr _ _ => 0xFF0000
  | .lseqtRv _ _ => 0xFF0000
  | .lseqtRr _ _ => 0xFF0000
  | .eqlRv _ _ => 0xFF0000
  | .eqlRr _ _ => 0xFF0000
  | .neqlRv _ _ => 0xFF0000
  | .neqlRr _ _ => 0xFF0000
  | .setRv _ _ => 0xFF0000
  | .setRr _ _ => 0xFF0000
  | .jmpDv _ _ => 0xFF0000
  | .jmpDr _ _ => 0xFF0000
  | .jmpRv _ _ => 0xFF0000
  | .jmpRr _ _ => 0xFF0000
  | .unassigned87 _ _ => 0xFF0000
  | .jzDrv _ _ _ => 0xF80000
  | .jzDrr _ _ _ => 0xF80000
  | .jzRrv _ _ _ => 0xF80000
  | .jzRrr _ _ _ => 0xF80000
  | .jnzDrv _ _ _ => 0xF80000
  | .jnzDrr _ _ _ => 0xF80000
  | .jnzRrv _ _ _ => 0xF80000
  | .jnzRrr _ _ _ => 0xF80000
  | .unassignedC8ToCF _ _ _ => 0xF80000
  | .unassignedD0ToDF _ _ _ => 0xF00000
  | .unassignedE0ToFF _ _ _ => 0xE00000

/-- The row's `match`, as spec/opcode_table.json has it. -/
def TableRow.pattern : Instr → BitVec 24
  | .endZ _ _ => 0x000000
  | .unassigned01 _ _ => 0x010000
  | .unassigned02To03 _ _ _ => 0x020000
  | .unassigned04To07 _ _ _ => 0x040000
  | .saveDvv _ _ _ => 0x080000
  | .saveDvr _ _ _ => 0x100000
  | .saveDrv _ _ _ => 0x180000
  | .saveDrr _ _ _ => 0x200000
  | .saveRvv _ _ _ => 0x280000
  | .saveRvr _ _ _ => 0x300000
  | .saveRrv _ _ _ => 0x380000
  | .saveRrr _ _ _ => 0x400000
  | .loadDvr _ _ _ => 0x480000
  | .loadDrr _ _ _ => 0x500000
  | .loadRvr _ _ _ => 0x580000
  | .loadRrr _ _ _ => 0x600000
  | .addRv _ _ => 0x680000
  | .addRr _ _ => 0x690000
  | .subRv _ _ => 0x6A0000
  | .subRr _ _ => 0x6B0000
  | .subVr _ _ => 0x6C0000
  | .orRv _ _ => 0x6D0000
  | .orRr _ _ => 0x6E0000
  | .xorRv _ _ => 0x6F0000
  | .xorRr _ _ => 0x700000
  | .norRv _ _ => 0x710000
  | .norRr _ _ => 0x720000
  | .andRv _ _ => 0x730000
  | .andRr _ _ => 0x740000
  | .grtRv _ _ => 0x750000
  | .grtRr _ _ => 0x760000
  | .lstRv _ _ => 0x770000
  | .lstRr _ _ => 0x780000
  | .greqtRv _ _ => 0x790000
  | .greqtRr _ _ => 0x7A0000
  | .lseqtRv _ _ => 0x7B0000
  | .lseqtRr _ _ => 0x7C0000
  | .eqlRv _ _ => 0x7D0000
  | .eqlRr _ _ => 0x7E0000
  | .neqlRv _ _ => 0x7F0000
  | .neqlRr _ _ => 0x800000
  | .setRv _ _ => 0x810000
  | .setRr _ _ => 0x820000
  | .jmpDv _ _ => 0x830000
  | .jmpDr _ _ => 0x840000
  | .jmpRv _ _ => 0x850000
  | .jmpRr _ _ => 0x860000
  | .unassigned87 _ _ => 0x870000
  | .jzDrv _ _ _ => 0x880000
  | .jzDrr _ _ _ => 0x900000
  | .jzRrv _ _ _ => 0x980000
  | .jzRrr _ _ _ => 0xA00000
  | .jnzDrv _ _ _ => 0xA80000
  | .jnzDrr _ _ _ => 0xB00000
  | .jnzRrv _ _ _ => 0xB80000
  | .jnzRrr _ _ _ => 0xC00000
  | .unassignedC8ToCF _ _ _ => 0xC80000
  | .unassignedD0ToDF _ _ _ => 0xD00000
  | .unassignedE0ToFF _ _ _ => 0xE00000

/-- The word `w = op0 : op1 : op2` of R16. -/
def TableRow.word (e : Byte × Byte × Byte) : BitVec 24 := e.1 ++ (e.2.1 ++ e.2.2)

/-- The encoded word selects the instruction's own row: `w & mask = match` (R65, R69, R70). -/
def TableRow.Statement (i : Instr) : Prop :=
  TableRow.word (encode Params.default i) &&& TableRow.mask i = TableRow.pattern i

/-- A row's mask tests opcode bits only, so the opcode byte decides. -/
theorem TableRow.of_opcode (a b c m k : Byte) (h : a &&& m = k) :
    TableRow.word (a, b, c) &&& (m ++ 0#16) = k ++ 0#16 := by
  subst h
  simp only [TableRow.word]
  have : (a ++ (b ++ c) : BitVec 24) &&& (m ++ 0#16) = (a &&& m) ++ ((b ++ c) &&& 0#16) := BitVec.and_append
  rw [this, BitVec.and_zero]

theorem TableRow.endZ (op1 : Byte) (op2 : Byte) : TableRow.Statement (.endZ op1 op2) :=
  TableRow.of_opcode 0x00 op1 op2 0xFF 0x00 (by decide)

theorem TableRow.unassigned01 (op1 : Byte) (op2 : Byte) : TableRow.Statement (.unassigned01 op1 op2) :=
  TableRow.of_opcode 0x01 op1 op2 0xFF 0x01 (by decide)

theorem TableRow.unassigned02To03 (u : BitVec 1) (op1 : Byte) (op2 : Byte) : TableRow.Statement (.unassigned02To03 u op1 op2) :=
  TableRow.of_opcode (0x02 + u.setWidth 8) op1 op2 0xFE 0x02 (by revert u; decide)

theorem TableRow.unassigned04To07 (u : BitVec 2) (op1 : Byte) (op2 : Byte) : TableRow.Statement (.unassigned04To07 u op1 op2) :=
  TableRow.of_opcode (0x04 + u.setWidth 8) op1 op2 0xFC 0x04 (by revert u; decide)

theorem TableRow.saveDvv (d : Sel) (idx : Byte) (v : Byte) : TableRow.Statement (.saveDvv d idx v) :=
  TableRow.of_opcode (packed 0x08 d) idx v 0xF8 0x08 (by revert d; decide)

theorem TableRow.saveDvr (d : Sel) (idx : Byte) (r : Byte) : TableRow.Statement (.saveDvr d idx r) :=
  TableRow.of_opcode (packed 0x10 d) idx r 0xF8 0x10 (by revert d; decide)

theorem TableRow.saveDrv (d : Sel) (ri : Byte) (v : Byte) : TableRow.Statement (.saveDrv d ri v) :=
  TableRow.of_opcode (packed 0x18 d) ri v 0xF8 0x18 (by revert d; decide)

theorem TableRow.saveDrr (d : Sel) (ri : Byte) (r : Byte) : TableRow.Statement (.saveDrr d ri r) :=
  TableRow.of_opcode (packed 0x20 d) ri r 0xF8 0x20 (by revert d; decide)

theorem TableRow.saveRvv (rd : Sel) (idx : Byte) (v : Byte) : TableRow.Statement (.saveRvv rd idx v) :=
  TableRow.of_opcode (packed 0x28 rd) idx v 0xF8 0x28 (by revert rd; decide)

theorem TableRow.saveRvr (rd : Sel) (idx : Byte) (r : Byte) : TableRow.Statement (.saveRvr rd idx r) :=
  TableRow.of_opcode (packed 0x30 rd) idx r 0xF8 0x30 (by revert rd; decide)

theorem TableRow.saveRrv (rd : Sel) (ri : Byte) (v : Byte) : TableRow.Statement (.saveRrv rd ri v) :=
  TableRow.of_opcode (packed 0x38 rd) ri v 0xF8 0x38 (by revert rd; decide)

theorem TableRow.saveRrr (rd : Sel) (ri : Byte) (r : Byte) : TableRow.Statement (.saveRrr rd ri r) :=
  TableRow.of_opcode (packed 0x40 rd) ri r 0xF8 0x40 (by revert rd; decide)

theorem TableRow.loadDvr (d : Sel) (idx : Byte) (r : Byte) : TableRow.Statement (.loadDvr d idx r) :=
  TableRow.of_opcode (packed 0x48 d) idx r 0xF8 0x48 (by revert d; decide)

theorem TableRow.loadDrr (d : Sel) (ri : Byte) (r : Byte) : TableRow.Statement (.loadDrr d ri r) :=
  TableRow.of_opcode (packed 0x50 d) ri r 0xF8 0x50 (by revert d; decide)

theorem TableRow.loadRvr (rd : Sel) (idx : Byte) (r : Byte) : TableRow.Statement (.loadRvr rd idx r) :=
  TableRow.of_opcode (packed 0x58 rd) idx r 0xF8 0x58 (by revert rd; decide)

theorem TableRow.loadRrr (rd : Sel) (ri : Byte) (r : Byte) : TableRow.Statement (.loadRrr rd ri r) :=
  TableRow.of_opcode (packed 0x60 rd) ri r 0xF8 0x60 (by revert rd; decide)

theorem TableRow.addRv (r : Byte) (v : Byte) : TableRow.Statement (.addRv r v) :=
  TableRow.of_opcode 0x68 r v 0xFF 0x68 (by decide)

theorem TableRow.addRr (r : Byte) (r2 : Byte) : TableRow.Statement (.addRr r r2) :=
  TableRow.of_opcode 0x69 r r2 0xFF 0x69 (by decide)

theorem TableRow.subRv (r : Byte) (v : Byte) : TableRow.Statement (.subRv r v) :=
  TableRow.of_opcode 0x6A r v 0xFF 0x6A (by decide)

theorem TableRow.subRr (r : Byte) (r2 : Byte) : TableRow.Statement (.subRr r r2) :=
  TableRow.of_opcode 0x6B r r2 0xFF 0x6B (by decide)

theorem TableRow.subVr (v : Byte) (r : Byte) : TableRow.Statement (.subVr v r) :=
  TableRow.of_opcode 0x6C v r 0xFF 0x6C (by decide)

theorem TableRow.orRv (r : Byte) (v : Byte) : TableRow.Statement (.orRv r v) :=
  TableRow.of_opcode 0x6D r v 0xFF 0x6D (by decide)

theorem TableRow.orRr (r : Byte) (r2 : Byte) : TableRow.Statement (.orRr r r2) :=
  TableRow.of_opcode 0x6E r r2 0xFF 0x6E (by decide)

theorem TableRow.xorRv (r : Byte) (v : Byte) : TableRow.Statement (.xorRv r v) :=
  TableRow.of_opcode 0x6F r v 0xFF 0x6F (by decide)

theorem TableRow.xorRr (r : Byte) (r2 : Byte) : TableRow.Statement (.xorRr r r2) :=
  TableRow.of_opcode 0x70 r r2 0xFF 0x70 (by decide)

theorem TableRow.norRv (r : Byte) (v : Byte) : TableRow.Statement (.norRv r v) :=
  TableRow.of_opcode 0x71 r v 0xFF 0x71 (by decide)

theorem TableRow.norRr (r : Byte) (r2 : Byte) : TableRow.Statement (.norRr r r2) :=
  TableRow.of_opcode 0x72 r r2 0xFF 0x72 (by decide)

theorem TableRow.andRv (r : Byte) (v : Byte) : TableRow.Statement (.andRv r v) :=
  TableRow.of_opcode 0x73 r v 0xFF 0x73 (by decide)

theorem TableRow.andRr (r : Byte) (r2 : Byte) : TableRow.Statement (.andRr r r2) :=
  TableRow.of_opcode 0x74 r r2 0xFF 0x74 (by decide)

theorem TableRow.grtRv (r : Byte) (v : Byte) : TableRow.Statement (.grtRv r v) :=
  TableRow.of_opcode 0x75 r v 0xFF 0x75 (by decide)

theorem TableRow.grtRr (r : Byte) (r2 : Byte) : TableRow.Statement (.grtRr r r2) :=
  TableRow.of_opcode 0x76 r r2 0xFF 0x76 (by decide)

theorem TableRow.lstRv (r : Byte) (v : Byte) : TableRow.Statement (.lstRv r v) :=
  TableRow.of_opcode 0x77 r v 0xFF 0x77 (by decide)

theorem TableRow.lstRr (r : Byte) (r2 : Byte) : TableRow.Statement (.lstRr r r2) :=
  TableRow.of_opcode 0x78 r r2 0xFF 0x78 (by decide)

theorem TableRow.greqtRv (r : Byte) (v : Byte) : TableRow.Statement (.greqtRv r v) :=
  TableRow.of_opcode 0x79 r v 0xFF 0x79 (by decide)

theorem TableRow.greqtRr (r : Byte) (r2 : Byte) : TableRow.Statement (.greqtRr r r2) :=
  TableRow.of_opcode 0x7A r r2 0xFF 0x7A (by decide)

theorem TableRow.lseqtRv (r : Byte) (v : Byte) : TableRow.Statement (.lseqtRv r v) :=
  TableRow.of_opcode 0x7B r v 0xFF 0x7B (by decide)

theorem TableRow.lseqtRr (r : Byte) (r2 : Byte) : TableRow.Statement (.lseqtRr r r2) :=
  TableRow.of_opcode 0x7C r r2 0xFF 0x7C (by decide)

theorem TableRow.eqlRv (r : Byte) (v : Byte) : TableRow.Statement (.eqlRv r v) :=
  TableRow.of_opcode 0x7D r v 0xFF 0x7D (by decide)

theorem TableRow.eqlRr (r : Byte) (r2 : Byte) : TableRow.Statement (.eqlRr r r2) :=
  TableRow.of_opcode 0x7E r r2 0xFF 0x7E (by decide)

theorem TableRow.neqlRv (r : Byte) (v : Byte) : TableRow.Statement (.neqlRv r v) :=
  TableRow.of_opcode 0x7F r v 0xFF 0x7F (by decide)

theorem TableRow.neqlRr (r : Byte) (r2 : Byte) : TableRow.Statement (.neqlRr r r2) :=
  TableRow.of_opcode 0x80 r r2 0xFF 0x80 (by decide)

theorem TableRow.setRv (r : Byte) (v : Byte) : TableRow.Statement (.setRv r v) :=
  TableRow.of_opcode 0x81 r v 0xFF 0x81 (by decide)

theorem TableRow.setRr (r : Byte) (r2 : Byte) : TableRow.Statement (.setRr r r2) :=
  TableRow.of_opcode 0x82 r r2 0xFF 0x82 (by decide)

theorem TableRow.jmpDv (d : Byte) (t : Byte) : TableRow.Statement (.jmpDv d t) :=
  TableRow.of_opcode 0x83 d t 0xFF 0x83 (by decide)

theorem TableRow.jmpDr (d : Byte) (t : Byte) : TableRow.Statement (.jmpDr d t) :=
  TableRow.of_opcode 0x84 d t 0xFF 0x84 (by decide)

theorem TableRow.jmpRv (rd : Byte) (t : Byte) : TableRow.Statement (.jmpRv rd t) :=
  TableRow.of_opcode 0x85 rd t 0xFF 0x85 (by decide)

theorem TableRow.jmpRr (rd : Byte) (t : Byte) : TableRow.Statement (.jmpRr rd t) :=
  TableRow.of_opcode 0x86 rd t 0xFF 0x86 (by decide)

theorem TableRow.unassigned87 (op1 : Byte) (op2 : Byte) : TableRow.Statement (.unassigned87 op1 op2) :=
  TableRow.of_opcode 0x87 op1 op2 0xFF 0x87 (by decide)

theorem TableRow.jzDrv (d : Sel) (c : Byte) (t : Byte) : TableRow.Statement (.jzDrv d c t) :=
  TableRow.of_opcode (packed 0x88 d) c t 0xF8 0x88 (by revert d; decide)

theorem TableRow.jzDrr (d : Sel) (c : Byte) (t : Byte) : TableRow.Statement (.jzDrr d c t) :=
  TableRow.of_opcode (packed 0x90 d) c t 0xF8 0x90 (by revert d; decide)

theorem TableRow.jzRrv (rd : Sel) (c : Byte) (t : Byte) : TableRow.Statement (.jzRrv rd c t) :=
  TableRow.of_opcode (packed 0x98 rd) c t 0xF8 0x98 (by revert rd; decide)

theorem TableRow.jzRrr (rd : Sel) (c : Byte) (t : Byte) : TableRow.Statement (.jzRrr rd c t) :=
  TableRow.of_opcode (packed 0xA0 rd) c t 0xF8 0xA0 (by revert rd; decide)

theorem TableRow.jnzDrv (d : Sel) (c : Byte) (t : Byte) : TableRow.Statement (.jnzDrv d c t) :=
  TableRow.of_opcode (packed 0xA8 d) c t 0xF8 0xA8 (by revert d; decide)

theorem TableRow.jnzDrr (d : Sel) (c : Byte) (t : Byte) : TableRow.Statement (.jnzDrr d c t) :=
  TableRow.of_opcode (packed 0xB0 d) c t 0xF8 0xB0 (by revert d; decide)

theorem TableRow.jnzRrv (rd : Sel) (c : Byte) (t : Byte) : TableRow.Statement (.jnzRrv rd c t) :=
  TableRow.of_opcode (packed 0xB8 rd) c t 0xF8 0xB8 (by revert rd; decide)

theorem TableRow.jnzRrr (rd : Sel) (c : Byte) (t : Byte) : TableRow.Statement (.jnzRrr rd c t) :=
  TableRow.of_opcode (packed 0xC0 rd) c t 0xF8 0xC0 (by revert rd; decide)

theorem TableRow.unassignedC8ToCF (u : BitVec 3) (op1 : Byte) (op2 : Byte) : TableRow.Statement (.unassignedC8ToCF u op1 op2) :=
  TableRow.of_opcode (0xC8 + u.setWidth 8) op1 op2 0xF8 0xC8 (by revert u; decide)

theorem TableRow.unassignedD0ToDF (u : BitVec 4) (op1 : Byte) (op2 : Byte) : TableRow.Statement (.unassignedD0ToDF u op1 op2) :=
  TableRow.of_opcode (0xD0 + u.setWidth 8) op1 op2 0xF0 0xD0 (by revert u; decide)

theorem TableRow.unassignedE0ToFF (u : BitVec 5) (op1 : Byte) (op2 : Byte) : TableRow.Statement (.unassignedE0ToFF u op1 op2) :=
  TableRow.of_opcode (0xE0 + u.setWidth 8) op1 op2 0xE0 0xE0 (by revert u; decide)

end Sys2Proof.Laws
end

