-- ==== Sys2Proof/Tests/Slice0.lean ====
section
/-! SUPPORT. The model's own tests: the WellFormed smoke, one word of every row written out bit by bit, one-step vectors of
spec/95_test_vectors.md, and a witness for the hypotheses of every obligation that has some. -/

namespace Sys2Proof.Tests

open Sys2Proof.Machine

/-! ## The static check (R77, vector S6) -/

theorem test_wellFormed_register_seven : (Instr.setRv 7 1).WellFormed = true := by decide
theorem test_wellFormed_register_eight : (Instr.setRv 8 1).registersInRange = false := by decide
theorem test_wellFormed_register_eight_refused : (Instr.setRv 8 1).WellFormed = false := by decide
theorem test_wellFormed_selector_seven : (Instr.jmpDv 7 0).WellFormed = true := by decide
theorem test_wellFormed_selector_eight : (Instr.jmpDv 8 0).selectorsInRange = false := by decide
theorem test_wellFormed_selector_eight_refused : (Instr.jmpDv 8 0).WellFormed = false := by decide

/-! ## Decoding: a word of every row, its fields written out from spec/30_encoding.md R69 to R72

The fields are separated by underscores. The ALU and compare bytes are those of the default map (D2). -/

theorem test_decode_end :
    decodeTableWord 24 0b00000000_00101110_11011101 = some (.endZ 46 221)
    ∧ decodeTableWord 24 0b00000001_01010011_00111000 = some (.unassigned01 83 56)
    ∧ decodeTableWord 24 0b0000001_1_01111000_10010011 = some (.unassigned02To03 1 120 147)
    ∧ decodeTableWord 24 0b000001_01_10011101_11101110 = some (.unassigned04To07 1 157 238) := by decide

theorem test_decode_save :
    decodeTableWord 24 0b00001_001_11000010_01001001 = some (.saveDvv 1 194 73)
    ∧ decodeTableWord 24 0b00010_100_11100111_10100100 = some (.saveDvr 4 231 164)
    ∧ decodeTableWord 24 0b00011_111_00001100_11111111 = some (.saveDrv 7 12 255)
    ∧ decodeTableWord 24 0b00100_010_00110001_01011010 = some (.saveDrr 2 49 90)
    ∧ decodeTableWord 24 0b00101_101_01010110_10110101 = some (.saveRvv 5 86 181)
    ∧ decodeTableWord 24 0b00110_000_01111011_00010000 = some (.saveRvr 0 123 16)
    ∧ decodeTableWord 24 0b00111_011_10100000_01101011 = some (.saveRrv 3 160 107)
    ∧ decodeTableWord 24 0b01000_110_11000101_11000110 = some (.saveRrr 6 197 198) := by decide

theorem test_decode_load :
    decodeTableWord 24 0b01001_001_11101010_00100001 = some (.loadDvr 1 234 33)
    ∧ decodeTableWord 24 0b01010_100_00001111_01111100 = some (.loadDrr 4 15 124)
    ∧ decodeTableWord 24 0b01011_111_00110100_11010111 = some (.loadRvr 7 52 215)
    ∧ decodeTableWord 24 0b01100_010_01011001_00110010 = some (.loadRrr 2 89 50) := by decide

theorem test_decode_arithmetic :
    decodeTableWord 24 0b01101000_01111110_10001101 = some (.addRv 126 141)
    ∧ decodeTableWord 24 0b01101001_10100011_11101000 = some (.addRr 163 232)
    ∧ decodeTableWord 24 0b01101010_11001000_01000011 = some (.subRv 200 67)
    ∧ decodeTableWord 24 0b01101011_11101101_10011110 = some (.subRr 237 158)
    ∧ decodeTableWord 24 0b01101100_00010010_11111001 = some (.subVr 18 249) := by decide

theorem test_decode_logic :
    decodeTableWord 24 0b01101101_00110111_01010100 = some (.orRv 55 84)
    ∧ decodeTableWord 24 0b01101110_01011100_10101111 = some (.orRr 92 175)
    ∧ decodeTableWord 24 0b01101111_10000001_00001010 = some (.xorRv 129 10)
    ∧ decodeTableWord 24 0b01110000_10100110_01100101 = some (.xorRr 166 101)
    ∧ decodeTableWord 24 0b01110001_11001011_11000000 = some (.norRv 203 192)
    ∧ decodeTableWord 24 0b01110010_11110000_00011011 = some (.norRr 240 27)
    ∧ decodeTableWord 24 0b01110011_00010101_01110110 = some (.andRv 21 118)
    ∧ decodeTableWord 24 0b01110100_00111010_11010001 = some (.andRr 58 209) := by decide

theorem test_decode_compare_order :
    decodeTableWord 24 0b01110101_01011111_00101100 = some (.grtRv 95 44)
    ∧ decodeTableWord 24 0b01110110_10000100_10000111 = some (.grtRr 132 135)
    ∧ decodeTableWord 24 0b01110111_10101001_11100010 = some (.lstRv 169 226)
    ∧ decodeTableWord 24 0b01111000_11001110_00111101 = some (.lstRr 206 61)
    ∧ decodeTableWord 24 0b01111001_11110011_10011000 = some (.greqtRv 243 152)
    ∧ decodeTableWord 24 0b01111010_00011000_11110011 = some (.greqtRr 24 243) := by decide

theorem test_decode_compare_equal :
    decodeTableWord 24 0b01111011_00111101_01001110 = some (.lseqtRv 61 78)
    ∧ decodeTableWord 24 0b01111100_01100010_10101001 = some (.lseqtRr 98 169)
    ∧ decodeTableWord 24 0b01111101_10000111_00000100 = some (.eqlRv 135 4)
    ∧ decodeTableWord 24 0b01111110_10101100_01011111 = some (.eqlRr 172 95)
    ∧ decodeTableWord 24 0b01111111_11010001_10111010 = some (.neqlRv 209 186)
    ∧ decodeTableWord 24 0b10000000_11110110_00010101 = some (.neqlRr 246 21) := by decide

theorem test_decode_set :
    decodeTableWord 24 0b10000001_00011011_01110000 = some (.setRv 27 112)
    ∧ decodeTableWord 24 0b10000010_01000000_11001011 = some (.setRr 64 203) := by decide

theorem test_decode_jmp :
    decodeTableWord 24 0b10000011_01100101_00100110 = some (.jmpDv 101 38)
    ∧ decodeTableWord 24 0b10000100_10001010_10000001 = some (.jmpDr 138 129)
    ∧ decodeTableWord 24 0b10000101_10101111_11011100 = some (.jmpRv 175 220)
    ∧ decodeTableWord 24 0b10000110_11010100_00110111 = some (.jmpRr 212 55) := by decide

theorem test_decode_branch :
    decodeTableWord 24 0b10001_010_11111001_10010010 = some (.jzDrv 2 249 146)
    ∧ decodeTableWord 24 0b10010_101_00011110_11101101 = some (.jzDrr 5 30 237)
    ∧ decodeTableWord 24 0b10011_000_01000011_01001000 = some (.jzRrv 0 67 72)
    ∧ decodeTableWord 24 0b10100_011_01101000_10100011 = some (.jzRrr 3 104 163)
    ∧ decodeTableWord 24 0b10101_110_10001101_11111110 = some (.jnzDrv 6 141 254)
    ∧ decodeTableWord 24 0b10110_001_10110010_01011001 = some (.jnzDrr 1 178 89)
    ∧ decodeTableWord 24 0b10111_100_11010111_10110100 = some (.jnzRrv 4 215 180)
    ∧ decodeTableWord 24 0b11000_111_11111100_00001111 = some (.jnzRrr 7 252 15) := by decide

theorem test_decode_unassigned_high :
    decodeTableWord 24 0b10000111_00100001_01101010 = some (.unassigned87 33 106)
    ∧ decodeTableWord 24 0b11001_111_01000110_11000101 = some (.unassignedC8ToCF 7 70 197)
    ∧ decodeTableWord 24 0b1101_0001_01101011_00100000 = some (.unassignedD0ToDF 1 107 32)
    ∧ decodeTableWord 24 0b111_11111_10010000_01111011 = some (.unassignedE0ToFF 31 144 123) := by decide

/-! ## One step (spec/95_test_vectors.md; the vectors it does not give are worked out from the rules named) -/

/-- The reset state with registers set, `pc` set, cells set, and a word stored at `(0, pc)`. -/
def start (regs : List (Fin 8 × Byte)) (w : Nat) (pc : Byte := 0) (cells : List (Byte × Byte × Byte) := []) : State :=
  let s := regs.foldl (fun s e => writeX s e.1 e.2) (setPc State.reset pc)
  State.withFetchWord (cells.foldl (fun s e => memWrite s e.1 e.2.1 e.2.2) s) 24 w

/-- The step answers a next state that `f` accepts. -/
def gives (o : StepOutcome) (f : State → Bool) : Bool :=
  match o with
  | .next t => f t
  | .fault _ => false
  | .refused _ => false

/-- The step answers a running state with this `active` and `pc`. -/
def at_ (t : State) (active pc : Byte) : Bool :=
  decide (t.status = .running) && decide (t.active = active) && decide (t.pc = pc)

/-- Register `r` is `v` after the step, and the step advanced by 3 from offset 0. -/
def putsReg (s : State) (r : Fin 8) (v : Byte) : Bool := gives (step s) fun t => at_ t 0 3 && decide (readX t r = v)

/-- Cell `(b, a)` is `v` after the step, and the step advanced by 3 from offset 0. -/
def putsCell (s : State) (b a v : Byte) : Bool := gives (step s) fun t => at_ t 0 3 && decide (memRead t b a = v)

/-- The step goes to `(active, pc)` and changes no register. -/
def goesTo (s : State) (active pc : Byte) : Bool := gives (step s) fun t => at_ t active pc && decide (t.x = s.x)

/-- The step ends in this fault, with the record of R160. -/
def faultsBy (s : State) (op0 : Option Byte) (c : Cause) : Bool :=
  gives (step s) fun t => decide (t.status = .faulted { cause := c, pc := s.pc, active := s.active, op0 := op0 })

/-- The step halts and changes only the status. -/
def halts (s : State) : Bool := gives (step s) fun t => decide (t = { s with status := .halted })

/-- The same state under `PC_EDGE_POLICY = wrap`. -/
def wrapping (s : State) : State := { s with params := { s.params with pcEdge := .wrap } }

/-- SL1, SL2, SL7. -/
theorem test_step_saveDvv :
    putsCell (start [] 0x08052A) 0 5 42 = true
    ∧ putsCell (start [] 0x0F0001) 6 0 1 = true
    ∧ putsCell (start [] 0x080199) 0 1 0x99 = true := by decide

/-- SL5, and R99: cell (0, 7) gets R2. -/
theorem test_step_saveDvr :
    faultsBy (start [] 0x110708) (some 0x11) (.registerOutOfRange 8) = true
    ∧ putsCell (start [(2, 9)] 0x110702) 0 7 9 = true := by decide

/-- SL6. -/
theorem test_step_saveDrv :
    putsCell (start [(1, 16)] 0x1801C8) 0 16 200 = true := by decide

/-- SL13. -/
theorem test_step_saveDrr :
    putsCell (start [(1, 3), (2, 4)] 0x220102) 1 3 4 = true := by decide

/-- SL3, SL4. -/
theorem test_step_saveRvv :
    putsCell (start [(3, 8)] 0x2B0A0B) 7 10 11 = true
    ∧ faultsBy (start [(3, 9)] 0x2B0A0B) (some 0x2B) (.bankOutOfRange 9) = true := by decide

/-- SL12, and R103: bank 7, cell 0 gets R1. -/
theorem test_step_saveRvr :
    faultsBy (start [(0, 9), (1, 5)] 0x300001) (some 0x30) (.bankOutOfRange 9) = true
    ∧ putsCell (start [(0, 8), (1, 5)] 0x300001) 7 0 5 = true := by decide

/-- R104: bank R4 - 1 = 2, cell R5 = 255. -/
theorem test_step_saveRrv :
    putsCell (start [(4, 3), (5, 255)] 0x3C0563) 2 255 99 = true := by decide

/-- R105: bank R7 - 1 = 0, cell R6 = 20 gets R5. -/
theorem test_step_saveRrr :
    putsCell (start [(7, 1), (6, 20), (5, 77)] 0x470605) 0 20 77 = true := by decide

/-- SL8, SL10. -/
theorem test_step_loadDvr :
    putsReg (start [] 0x480001) 1 0x48 = true
    ∧ faultsBy (start [] 0x480008) (some 0x48) (.registerOutOfRange 8) = true := by decide

/-- SL9: the index is the old R2. -/
theorem test_step_loadDrr :
    putsReg (start [(2, 4)] 0x530202 (cells := [(2, 4, 77)])) 2 77 = true := by decide

/-- Program P2, its third word: R2 = 2 selects bank 1. -/
theorem test_step_loadRvr :
    putsReg (start [(2, 2)] 0x5A0A03 (cells := [(1, 10, 77)])) 3 77 = true := by decide

/-- SL11: R1 = 0 is the active bank. -/
theorem test_step_loadRrr :
    putsReg (start [] 0x610203) 3 0x61 = true := by decide

/-- ST1, ST3, E1 (fault and wrap), E2. -/
theorem test_step_setRv :
    putsReg (start [] 0x8100FF) 0 255 = true
    ∧ faultsBy (start [] 0x810801) (some 0x81) (.registerOutOfRange 8) = true
    ∧ faultsBy (start [] 0x810101 (pc := 253)) (some 0x81) (.pcOutOfBank 253) = true
    ∧ gives (step (wrapping (start [] 0x810101 (pc := 253)))) (fun t => at_ t 0 0 && decide (readX t 1 = 1)) = true
    ∧ gives (step (start [] 0x810101 (pc := 252))) (fun t => at_ t 0 255 && decide (readX t 1 = 1)) = true := by decide

/-- ST2, ST4, ST5. -/
theorem test_step_setRr :
    putsReg (start [(5, 7)] 0x820105) 1 7 = true
    ∧ faultsBy (start [] 0x8201C8) (some 0x82) (.registerOutOfRange 200) = true
    ∧ goesTo (start [(3, 6)] 0x820303) 0 3 = true := by decide

/-- A1, A2, A18. -/
theorem test_step_addRv :
    putsReg (start [(1, 200)] 0x680137) 0 255 = true
    ∧ faultsBy (start [(1, 200)] 0x680138) (some 0x68) (.arithmeticOverflow .add 200 56) = true
    ∧ faultsBy (start [] 0x680900) (some 0x68) (.registerOutOfRange 9) = true := by decide

/-- A3, A4, S8. -/
theorem test_step_addRr :
    faultsBy (start [(0, 128)] 0x690000) (some 0x69) (.arithmeticOverflow .add 128 128) = true
    ∧ putsReg (start [(0, 127)] 0x690000) 0 254 = true
    ∧ gives (step (start [(5, 1), (6, 2)] 0x690506)) (fun t => decide (t.x = #v[3, 0, 0, 0, 0, 1, 2, 0])) = true := by decide

/-- A5, and R117: 5 - 5. -/
theorem test_step_subRv :
    faultsBy (start [] 0x6A0101) (some 0x6A) (.arithmeticOverflow .sub 0 1) = true
    ∧ putsReg (start [(0, 9), (1, 5)] 0x6A0105) 0 0 = true := by decide

/-- A6, and R118: 9 - 5. -/
theorem test_step_subRr :
    putsReg (start [(1, 5), (2, 5)] 0x6B0102) 0 0 = true
    ∧ putsReg (start [(1, 9), (2, 5)] 0x6B0102) 0 4 = true := by decide

/-- A7, A8, A9. -/
theorem test_step_subVr :
    faultsBy (start [(1, 1)] 0x6C0001) (some 0x6C) (.arithmeticOverflow .sub 0 1) = true
    ∧ putsReg (start [(1, 3)] 0x6C0A01) 0 7 = true
    ∧ faultsBy (start [] 0x6CC808) (some 0x6C) (.registerOutOfRange 8) = true := by decide

/-- A10. -/
theorem test_step_orRv :
    putsReg (start [(1, 160)] 0x6D010A) 0 0xAA = true := by decide

/-- A11. -/
theorem test_step_orRr :
    putsReg (start [(1, 15), (2, 240)] 0x6E0102) 0 0xFF = true := by decide

/-- A12. -/
theorem test_step_xorRv :
    putsReg (start [(0, 15)] 0x6F00FF) 0 0xF0 = true := by decide

/-- A13. -/
theorem test_step_xorRr :
    putsReg (start [(1, 255), (2, 15)] 0x700102) 0 0xF0 = true := by decide

/-- A14. -/
theorem test_step_norRv :
    putsReg (start [] 0x710100) 0 0xFF = true := by decide

/-- A15. -/
theorem test_step_norRr :
    putsReg (start [(1, 240), (2, 15)] 0x720102) 0 0x00 = true := by decide

/-- A16. -/
theorem test_step_andRv :
    putsReg (start [(1, 90)] 0x7301FF) 0 0x5A = true := by decide

/-- A17. -/
theorem test_step_andRr :
    putsReg (start [(1, 240), (2, 60)] 0x740102) 0 0x30 = true := by decide

/-- C1, C2. -/
theorem test_step_grtRv :
    putsReg (start [(1, 5), (0, 7)] 0x750105) 0 0 = true
    ∧ putsReg (start [(1, 5)] 0x750104) 0 1 = true := by decide

/-- C3, and R131: 200 > 100. -/
theorem test_step_grtRr :
    putsReg (start [(1, 9), (0, 7)] 0x760101) 0 0 = true
    ∧ putsReg (start [(1, 200), (2, 100)] 0x760102) 0 1 = true := by decide

/-- C4, and R132: 5 < 200. -/
theorem test_step_lstRv :
    putsReg (start [(0, 7)] 0x770100) 0 0 = true
    ∧ putsReg (start [(1, 5)] 0x7701C8) 0 1 = true := by decide

/-- C5, and R133: 100 < 200. -/
theorem test_step_lstRr :
    putsReg (start [(0, 7), (1, 200), (2, 100)] 0x780102) 0 0 = true
    ∧ putsReg (start [(1, 100), (2, 200)] 0x780102) 0 1 = true := by decide

/-- C6, and R134: 5 against 200. -/
theorem test_step_greqtRv :
    putsReg (start [] 0x790100) 0 1 = true
    ∧ putsReg (start [(0, 7), (1, 5)] 0x7901C8) 0 0 = true := by decide

/-- C7, and R135: 9 against 9. -/
theorem test_step_greqtRr :
    putsReg (start [(0, 7), (2, 255)] 0x7A0102) 0 0 = true
    ∧ putsReg (start [(1, 9), (2, 9)] 0x7A0102) 0 1 = true := by decide

/-- C8, and R136: 2 against 2. -/
theorem test_step_lseqtRv :
    putsReg (start [(0, 7), (1, 3)] 0x7B0102) 0 0 = true
    ∧ putsReg (start [(1, 2)] 0x7B0102) 0 1 = true := by decide

/-- C9, and R137: 200 against 100. -/
theorem test_step_lseqtRr :
    putsReg (start [(1, 9), (2, 9)] 0x7C0102) 0 1 = true
    ∧ putsReg (start [(0, 7), (1, 200), (2, 100)] 0x7C0102) 0 0 = true := by decide

/-- C10, and R138: 7 against 8. -/
theorem test_step_eqlRv :
    putsReg (start [(0, 7)] 0x7D0007) 0 1 = true
    ∧ putsReg (start [(0, 7)] 0x7D0008) 0 0 = true := by decide

/-- C11, and R139: 0 against 7. -/
theorem test_step_eqlRr :
    putsReg (start [] 0x7E0303) 0 1 = true
    ∧ putsReg (start [(0, 7)] 0x7E0003) 0 0 = true := by decide

/-- C12, and R140: 3 against 3. -/
theorem test_step_neqlRv :
    putsReg (start [(1, 3)] 0x7F0100) 0 1 = true
    ∧ putsReg (start [(0, 7), (1, 3)] 0x7F0103) 0 0 = true := by decide

/-- C13, and R141: 7 against 0. -/
theorem test_step_neqlRr :
    faultsBy (start [] 0x800108) (some 0x80) (.registerOutOfRange 8) = true
    ∧ putsReg (start [(2, 7)] 0x800102) 0 1 = true := by decide

/-- J1, J2. -/
theorem test_step_jzDrv :
    goesTo (start [] 0x88000F) 0 15 = true
    ∧ goesTo (start [(0, 1)] 0x88000F) 0 3 = true := by decide

/-- J3, J4. -/
theorem test_step_jzDrr :
    goesTo (start [(1, 33)] 0x930001) 2 33 = true
    ∧ faultsBy (start [(1, 1)] 0x910108) (some 0x91) (.registerOutOfRange 8) = true := by decide

/-- J5, and R147: R3 = 8 selects bank 7. -/
theorem test_step_jzRrv :
    faultsBy (start [(3, 9), (1, 1)] 0x9B0100) (some 0x9B) (.bankOutOfRange 9) = true
    ∧ goesTo (start [(3, 8)] 0x9B0105) 7 5 = true := by decide

/-- J6, and R148: not taken. -/
theorem test_step_jzRrr :
    goesTo (start [(0, 2), (2, 6)] 0xA00102) 1 6 = true
    ∧ goesTo (start [(0, 2), (2, 6), (1, 1)] 0xA00102) 0 3 = true := by decide

/-- J7, and R149: not taken. -/
theorem test_step_jnzDrv :
    goesTo (start [(1, 2)] 0xAA0163) 1 99 = true
    ∧ goesTo (start [] 0xAA0163) 0 3 = true := by decide

/-- J8. -/
theorem test_step_jnzDrr :
    goesTo (start [(1, 1), (2, 40)] 0xB20102) 1 40 = true := by decide

/-- J9, J10. -/
theorem test_step_jnzRrv :
    goesTo (start [(1, 5)] 0xB801C8) 0 200 = true
    ∧ goesTo (start [(4, 1), (5, 7)] 0xBC0564) 0 100 = true := by decide

/-- J11. -/
theorem test_step_jnzRrr :
    goesTo (start [(7, 3)] 0xC70707) 2 3 = true := by decide

/-- J12, J13, E4. -/
theorem test_step_jmpDv :
    goesTo (start [] 0x830800) 7 0 = true
    ∧ faultsBy (start [] 0x830900) (some 0x83) (.bankOutOfRange 9) = true
    ∧ goesTo (start [] 0x830000 (pc := 253)) 0 0 = true := by decide

/-- J14. -/
theorem test_step_jmpDr :
    goesTo (start [(2, 254)] 0x840002) 0 254 = true := by decide

/-- J15, J16. -/
theorem test_step_jmpRv :
    goesTo (start [] 0x850109) 0 9 = true
    ∧ goesTo (start [(1, 5)] 0x850109) 4 9 = true := by decide

/-- J17, and R156: R1 = 6, R2 = 30. -/
theorem test_step_jmpRr :
    faultsBy (start [(1, 1)] 0x860108) (some 0x86) (.registerOutOfRange 8) = true
    ∧ goesTo (start [(1, 6), (2, 30)] 0x860102) 5 30 = true := by decide

/-- Z1, and E3 under wrap. -/
theorem test_step_endZ :
    halts (start [] 0x001234) = true
    ∧ halts (wrapping (setPc State.reset 254)) = true := by decide

/-- Z2, Z3, Z4, Z5. -/
theorem test_step_unassigned :
    halts (start [] 0x870102) = true
    ∧ halts (start [] 0xC80000) = true
    ∧ halts (start [] 0xFFFFFF) = true
    ∧ halts (start [] 0x010909) = true := by decide

/-- E3, and E2 and J14 at their second step: a fetch past the bank. -/
theorem test_step_fetch_edge :
    faultsBy (setPc State.reset 254) none (.pcOutOfBank 254) = true
    ∧ faultsBy (setPc State.reset 255) none (.pcOutOfBank 255) = true := by decide

/-- R1, R2, R3: the checks of the core input. -/
theorem test_reset :
    halts State.reset = true
    ∧ (State.resetWith .default 0 (List.replicate 9 (List.replicate 256 0))).status
        = .faulted ⟨.malformedCount 9, 0, 0, none⟩
    ∧ (State.resetWith .default 0 [List.replicate 256 0, List.replicate 255 0]).status
        = .faulted ⟨.malformedBank 1 255, 0, 0, none⟩ := by
  refine ⟨by decide, ?_, ?_⟩ <;> simp [State.resetWith, State.reset, malformed, firstBadBank, -List.reduceReplicate]

/-- S7: the selector rule with `active` = 5, and with `SELECTOR_MAX` = 7. -/
theorem test_resolve :
    resolve .default 0 5 = .ok 5 ∧ resolve .default 1 5 = .ok 0 ∧ resolve .default 8 5 = .ok 7
    ∧ resolve .default 9 5 = .bad (.bankOutOfRange 9) []
    ∧ resolve { Params.default with selectorMax := .seven } 8 5 = .bad (.bankOutOfRange 8) [] := by decide

/-- The fault codes of R159. -/
theorem test_fault_codes :
    FaultKind.registerOutOfRange.code = 1 ∧ FaultKind.bankOutOfRange.code = 2 ∧ FaultKind.arithmeticOverflow.code = 3
    ∧ FaultKind.malformedImage.code = 4 ∧ FaultKind.pcOutOfBank.code = 5 := by decide

theorem test_memory_wf_at_reset : State.reset.banks.wf = true := by decide

/-- Writing a 0 removes the entry: equal memories are equal data. -/
theorem test_memory_canonical : Memory.write (Memory.write [] 5 42) 5 0 = [] := by decide

theorem test_default_params_wf : Params.default.wf = true := by decide

/-! ## Witnesses: concrete states and operands that meet the hypotheses of each obligation

One theorem `witness_<Name>` per obligation with hypotheses. Where the clauses have different hypotheses, one state meets
those of all clauses that do not exclude each other, and the boundary values of each clause follow. -/

/-- The reset state with these registers, `pc` and `active`. -/
def at3 (x : Vector Byte 8) (pc active : Byte) : State := { State.reset with x := x, pc := pc, active := active }

/-- Registers with a good selector (2 and 8), a bad one (9 and 255), a zero, and two values. -/
def regs : Vector Byte 8 := #v[0, 9, 2, 8, 200, 56, 255, 1]

/-- The last place whose fall-through exists, in the last bank. -/
def last : State := at3 regs 252 7

/-- The first place whose fall-through does not. -/
def edge : State := at3 regs 253 7

/-- The same under `FAULT_PRIORITY = any`. -/
def edgeAny : State := { edge with params := { edge.params with faultPriority := .any } }

/-- `last` under `SELECTOR_MAX` = 7. -/
def seven : State := { last with params := { last.params with selectorMax := .seven } }

theorem witness_ResetLoadsTheImages :
    (List.replicate 8 (List.replicate 256 (1 : Byte))).length ≤ 8
    ∧ (∀ b ∈ List.replicate 8 (List.replicate 256 (1 : Byte)), b.length = 256)
    ∧ (List.replicate 8 (List.replicate 256 (1 : Byte)))[(7 : Byte).toNat]? = some (List.replicate 256 1)
    ∧ ([] : List (List Byte)).length ≤ (7 : Byte).toNat ∧ (7 : Byte).toNat < 8 := by
  refine ⟨by decide, fun b hb => ?_, rfl, by decide, by decide⟩
  rw [List.eq_of_mem_replicate hb, List.length_replicate]

theorem witness_MalformedImageFaultsAtReset_count : 8 < (List.replicate 9 ([] : List Byte)).length := by decide

theorem witness_MalformedImageFaultsAtReset_length :
    ([List.replicate 256 (0 : Byte), [7]] : List (List Byte)).length ≤ 8
    ∧ ([List.replicate 256 (0 : Byte), [7]] : List (List Byte))[1]? = some [7] ∧ ([7] : List Byte).length ≠ 256
    ∧ ∀ (j : Nat) (b : List Byte), j < 1 →
        ([List.replicate 256 (0 : Byte), [7]] : List (List Byte))[j]? = some b → b.length = 256 := by
  refine ⟨by decide, rfl, by decide, fun j b hj hb => ?_⟩
  obtain rfl : j = 0 := by omega
  simp only [List.getElem?_cons_zero, Option.some.injEq] at hb
  rw [← hb, List.length_replicate]

theorem witness_FinishedRunIgnoresMoreFuel :
    ∃ t, runLoop 1 State.reset = .next t ∧ t.status ≠ .running := ⟨_, rfl, by decide⟩

theorem witness_RunLoopAgreesWithSteps :
    (∃ t, Host.Core.run core 1 last = .next t) ∧ ∃ t, runLoop 0 last = .next t ∧ t.status = .running :=
  ⟨⟨_, rfl⟩, _, rfl, rfl⟩

theorem witness_StepRunsTheFetchedInstruction :
    (at3 regs 253 7).status = .running ∧ (at3 regs 253 7).active.toNat < 8 ∧ (at3 regs 253 7).pc.toNat ≤ 253
    ∧ (at3 regs 253 7).banks.read (256 * (at3 regs 253 7).active.toNat + (at3 regs 253 7).pc.toNat) = 0 := by decide

theorem witness_StepRunsTheFetchedInstruction_wrap :
    (wrapping (at3 regs 255 7)).status = .running ∧ (wrapping (at3 regs 255 7)).active.toNat < 8
    ∧ (wrapping (at3 regs 255 7)).params.pcEdge = .wrap := by decide

theorem witness_FetchPastTheBankFaults :
    (at3 regs 254 7).status = .running ∧ (at3 regs 254 7).params.pcEdge = .fault ∧ 253 < (at3 regs 254 7).pc.toNat := by
  decide

/-- A faulted state that meets the invariant; a fault record is all that it needs. -/
def faulted : State := { last with status := .faulted ⟨.registerOutOfRange 8, 0, 7, some 0x81⟩ }

theorem witness_StepsExistExactlyWhileRunning :
    last.Inv = true ∧ last.status = .running
    ∧ { last with status := .halted }.Inv = true ∧ { last with status := .halted }.status = .halted
    ∧ faulted.Inv = true ∧ faulted.status = .faulted ⟨.registerOutOfRange 8, 0, 7, some 0x81⟩ := by decide

theorem witness_ExecNeverStops : (at3 regs 255 7).active.toNat < 8 := by decide

theorem witness_LoadedResetMeetsTheInvariant : Params.default.wf = true := by decide

theorem witness_StepKeepsTheInvariant : ∃ t, edge.Inv = true ∧ step edge = .next t := ⟨_, by decide, rfl⟩

theorem witness_StepKeepsTheInvariant_fault :
    ∃ t, (at3 regs 254 0).Inv = true ∧ step (at3 regs 254 0) = .next t ∧ t.status.isFaulted = true :=
  ⟨_, by decide, rfl, rfl⟩

/-- A map other than the default: the first two ALU bytes exchanged. -/
def swapped : Params :=
  { Params.default with aluMap := #v[.addRr, .addRv, .subRv, .subRr, .subVr, .orRv, .orRr, .xorRv, .xorRr, .norRv,
      .norRr, .andRv, .andRr] }

theorem witness_DecodeOfEncodeIsTheInstruction : swapped.wf = true ∧ Params.default.wf = true := by decide

theorem witness_EncodeOfDecodeIsTheWord : swapped.wf = true ∧ decodeWord swapped 0x68 1 3 = .addRr 1 3 := by decide

theorem witness_UnassignedOpcodesDecodeAsEnd :
    (0x07 : Byte).toNat ≤ 0x07 ∧ (0x87 : Byte).toNat = 0x87 ∧ 0xC8 ≤ (0xC8 : Byte).toNat
    ∧ ¬ ((0x08 : Byte).toNat ≤ 0x07 ∨ (0x08 : Byte).toNat = 0x87 ∨ 0xC8 ≤ (0x08 : Byte).toNat)
    ∧ ¬ ((0xC7 : Byte).toNat ≤ 0x07 ∨ (0xC7 : Byte).toNat = 0x87 ∨ 0xC8 ≤ (0xC7 : Byte).toNat) := by decide

theorem witness_ResolveFollowsTheSelectorRule :
    (0 : Byte) = 0 ∧ ((1 : Byte).toNat = (0 : Byte).toNat + 1 ∧ (1 : Byte).toNat ≤ Params.default.selectorMax.toNat)
    ∧ ((8 : Byte).toNat = (7 : Byte).toNat + 1 ∧ (8 : Byte).toNat ≤ Params.default.selectorMax.toNat)
    ∧ Params.default.selectorMax.toNat < (9 : Byte).toNat ∧ seven.params.selectorMax.toNat < (8 : Byte).toNat := by decide

theorem witness_PackedLiteralsReachBanksZeroToSix :
    bankOfLiteralSel last 0 = .ok 7 ∧ bankOfLiteralSel last 7 = .ok 6 ∧ bankOfLiteralSel seven 7 = .ok 6 := by decide

theorem witness_RegisterIndicesAreChecked : (7 : Byte).toNat < 8 ∧ 8 ≤ (8 : Byte).toNat ∧ 8 ≤ (255 : Byte).toNat := by
  decide

theorem witness_AluComputesExactlyOrFaults :
    (255 : Byte).toNat = (200 : Byte).toNat + (55 : Byte).toNat ∧ 255 < (200 : Byte).toNat + (56 : Byte).toNat
    ∧ (5 : Byte).toNat = (0 : Byte).toNat + (5 : Byte).toNat ∧ (0 : Byte).toNat < (1 : Byte).toNat
    ∧ (∀ k : Fin 8, (0xAA : Byte)[k] = ((0xA0 : Byte)[k] || (0x0A : Byte)[k]))
    ∧ (∀ k : Fin 8, (0xF0 : Byte)[k] = ((0x0F : Byte)[k] ^^ (0xFF : Byte)[k]))
    ∧ (∀ k : Fin 8, (0x30 : Byte)[k] = ((0xF0 : Byte)[k] && (0x3C : Byte)[k]))
    ∧ (∀ k : Fin 8, (0x00 : Byte)[k] = !((0xF0 : Byte)[k] || (0x0F : Byte)[k])) := by decide

/-- One choice of operands for every clause: sel = 2, op1 = 6, op2 = 4, d = 2, b = 1, a = 255, v = 200, n = 255. -/
theorem witness_SaveStoresOneByte :
    (1 : Byte).toNat < 8 ∧ FallsTo last 255 ∧ SelectsBank last ((2 : Sel).setWidth 8) 1 ∧ Holds last 4 200
    ∧ Holds last 6 255 ∧ HoldsSel last 2 2 ∧ SelectsBank last 2 1 := by decide

theorem witness_SaveStoresOneByte_bounds :
    (SelectsBank last ((0 : Sel).setWidth 8) 7 ∧ SelectsBank last ((7 : Sel).setWidth 8) 6)
    ∧ (HoldsSel last 3 8 ∧ SelectsBank last 8 7) ∧ (HoldsSel last 0 0 ∧ SelectsBank last 0 7)
    ∧ FallsTo (wrapping edge) 0 ∧ Holds last 0 0 ∧ Holds last 7 1 := by decide

theorem witness_MemoryChangesOnlyAtTheStoredCell :
    ∃ t, exec (.saveDvv 0 5 42) last = .next t ∧ t.Safe = true
      ∧ (∀ b a : Byte, storeTarget (.saveDvv 0 5 42) last = some (.ok (b, a)) → (2047 : Nat) ≠ cellAddr b a) := by
  refine ⟨_, rfl, by decide, fun b a h => ?_⟩
  have e : storeTarget (.saveDvv 0 5 42) last = some (.ok (7, 5)) := by decide
  rw [e] at h
  cases h
  decide

/-- sel = 2, op1 = 6, op2 = 7, d = 2, b = 1, a = 255, r = 7, n = 255. -/
theorem witness_LoadMovesTheByteIntoTheRegister :
    (1 : Byte).toNat < 8 ∧ (7 : Byte).toNat = (7 : Fin 8) ∧ FallsTo last 255
    ∧ SelectsBank last ((2 : Sel).setWidth 8) 1 ∧ Holds last 6 255 ∧ HoldsSel last 2 2 ∧ SelectsBank last 2 1 := by decide

theorem witness_SetWritesTheNamedRegister :
    (7 : Byte).toNat = (7 : Fin 8) ∧ (0 : Byte).toNat = (0 : Fin 8) ∧ FallsTo last 255 ∧ Holds last 7 1 := by decide

/-- ADD: 200 + 55 = 255 and 200 + 1 = 201. SUB: 200 - 200 = 0 and 56 - 56 = 0. SUB VR: 1 - 1 = 0. -/
theorem witness_AddAndSubAreExact :
    FallsTo last 255 ∧ (Holds last 4 200 ∧ (255 : Byte).toNat = (200 : Byte).toNat + (55 : Byte).toNat)
    ∧ (Holds last 4 200 ∧ Holds last 7 1 ∧ (201 : Byte).toNat = (200 : Byte).toNat + (1 : Byte).toNat)
    ∧ (Holds last 4 200 ∧ (200 : Byte).toNat = (0 : Byte).toNat + (200 : Byte).toNat)
    ∧ (Holds last 5 56 ∧ Holds last 5 56 ∧ (56 : Byte).toNat = (0 : Byte).toNat + (56 : Byte).toNat)
    ∧ (Holds last 7 1 ∧ (1 : Byte).toNat = (0 : Byte).toNat + (1 : Byte).toNat) := by decide

theorem witness_LogicOperationsWriteRegisterZero : FallsTo last 255 ∧ Holds last 6 255 ∧ Holds last 7 1 := by decide

theorem witness_ComparisonsWriteOneOrZero : FallsTo last 255 ∧ Holds last 0 0 ∧ Holds last 6 255 := by decide

/-- sel = 2, d = 2, b = 1, t = 200 in op2 = 4; the condition register is 0 for JZ and 6 for JNZ. -/
theorem witness_TakenBranchesSetActiveAndPc :
    SelectsBank last ((2 : Sel).setWidth 8) 1 ∧ HoldsSel last 2 2 ∧ SelectsBank last 2 1 ∧ Holds last 4 200
    ∧ (Holds last 0 0 ∧ (0 : Byte) = 0) ∧ (Holds last 7 1 ∧ (1 : Byte) ≠ 0) := by decide

theorem witness_TakenBranchesSetActiveAndPc_bounds :
    SelectsBank last ((7 : Sel).setWidth 8) 6 ∧ HoldsSel last 3 8 ∧ SelectsBank last 8 7 ∧ (255 : Byte) ≠ 0 := by decide

theorem witness_UntakenBranchesFallThrough :
    FallsTo last 255 ∧ SelectsBank last ((2 : Sel).setWidth 8) 1 ∧ HoldsSel last 2 2 ∧ SelectsBank last 2 1
    ∧ Holds last 4 200 ∧ (Holds last 7 1 ∧ (1 : Byte) ≠ 0) ∧ (Holds last 0 0 ∧ (0 : Byte) = 0) := by decide

theorem witness_UntakenBranchAtTheEdgeFaults :
    FallsOff edge ∧ FallsOff edgeAny ∧ SelectsBank edge ((2 : Sel).setWidth 8) 1 ∧ HoldsSel edge 2 2
    ∧ SelectsBank edge 2 1 ∧ Holds edge 4 200 ∧ (Holds edge 7 1 ∧ (1 : Byte) ≠ 0) ∧ (Holds edge 0 0 ∧ (0 : Byte) = 0) := by
  decide

theorem witness_JumpsSetActiveAndPc :
    SelectsBank last 8 7 ∧ SelectsBank last 0 7 ∧ Holds last 3 8 ∧ Holds last 6 255 := by decide

theorem witness_OverflowFaultsInsteadOfWrapping :
    (edge.params.faultPriority = .order ∨ ∃ n, FallsTo edge n)
    ∧ (Holds edge 4 200 ∧ 255 < (200 : Byte).toNat + (56 : Byte).toNat)
    ∧ (Holds edge 4 200 ∧ Holds edge 5 56 ∧ 255 < (200 : Byte).toNat + (56 : Byte).toNat)
    ∧ (Holds edge 0 0 ∧ (0 : Byte).toNat < (1 : Byte).toNat)
    ∧ (Holds edge 0 0 ∧ Holds edge 7 1 ∧ (0 : Byte).toNat < (1 : Byte).toNat)
    ∧ (Holds edge 7 1 ∧ (0 : Byte).toNat < (1 : Byte).toNat) := by
  exact ⟨.inl rfl, by decide⟩

theorem witness_OverflowFaultsInsteadOfWrapping_any :
    ({ last with params := { last.params with faultPriority := .any } } : State).params.faultPriority = .order
      ∨ ∃ n, FallsTo { last with params := { last.params with faultPriority := .any } } n := .inr ⟨255, by decide⟩

/-- sel = 1 holds 9 (bad); sel = 2 holds 2 (good); op1 = 6 is good, op1 = 8 and op2 = 8 name no register. -/
theorem witness_SaveFaultsInOperandOrder :
    edge.params.faultPriority = .order ∧ NoRegister 8 ∧ (HoldsSel edge 1 9 ∧ NoBank edge 9)
    ∧ (HoldsSel edge 2 2 ∧ SelectsBank edge 2 1) ∧ Holds edge 6 255 ∧ (HoldsSel seven 3 8 ∧ NoBank seven 8) := by decide

theorem witness_LoadFaultsInOperandOrder :
    edge.params.faultPriority = .order ∧ NoRegister 8 ∧ (HoldsSel edge 1 9 ∧ NoBank edge 9)
    ∧ (HoldsSel edge 2 2 ∧ SelectsBank edge 2 1) ∧ Holds edge 6 255 := by decide

theorem witness_BranchesCheckEveryOperandTakenOrNot :
    edge.params.faultPriority = .order ∧ NoRegister 8 ∧ (HoldsSel edge 1 9 ∧ NoBank edge 9)
    ∧ (HoldsSel edge 2 2 ∧ SelectsBank edge 2 1) ∧ Holds edge 0 0 ∧ Holds edge 7 1 := by decide

theorem witness_JumpFaultsInOperandOrder :
    edge.params.faultPriority = .order ∧ NoBank edge 9 ∧ SelectsBank edge 8 7 ∧ NoRegister 8
    ∧ (Holds edge 1 9 ∧ NoBank edge 9) ∧ (Holds edge 3 8 ∧ SelectsBank edge 8 7) := by decide

theorem witness_FlatRegisterOperandsFaultInOrder :
    edge.params.faultPriority = .order ∧ NoRegister 8 ∧ NoRegister 255 ∧ (7 : Byte).toNat < 8 := by decide

theorem witness_FallThroughPastTheBankFaults :
    (Instr.setRv 1 1).isHalt = false ∧ (Instr.setRv 1 1).isJump = false ∧ FallsOff edgeAny ∧ edgeAny.active.toNat < 8
    ∧ edgeAny.status = .running
    ∧ ∃ t, exec (.setRv 1 1) { edgeAny with pc := 0 } = .next t ∧ t.status = .running :=
  ⟨by decide, by decide, by decide, by decide, by decide, _, rfl, by decide⟩

/-- One fault of each cause: a register of 8, a held selector of 9, ADD to 256, SUB below 0, an untaken JNZ at 253. -/
theorem witness_FaultRecordsNameTheFaultingStep :
    (∃ t f, edge.status = .running ∧ exec (.setRv 8 1) edge = .next t ∧ t.status = .faulted f)
    ∧ (∃ t f, exec (.saveRvv 1 0 0) edge = .next t ∧ t.status = .faulted f
        ∧ resolvedSelector (.saveRvv 1 0 0) edge = some 9 ∧ f.cause = .bankOutOfRange 9)
    ∧ (∃ t f, exec (.addRr 4 5) edge = .next t ∧ t.status = .faulted f
        ∧ AluOperands (.addRr 4 5) edge .add 200 56 ∧ f.cause = .arithmeticOverflow .add 200 56)
    ∧ (∃ t f, exec (.subVr 0 7) edge = .next t ∧ t.status = .faulted f
        ∧ AluOperands (.subVr 0 7) edge .sub 0 1 ∧ f.cause = .arithmeticOverflow .sub 0 1)
    ∧ (∃ t f, exec (.jnzDrv 0 0 0) edge = .next t ∧ t.status = .faulted f
        ∧ FallsThrough (.jnzDrv 0 0 0) edge ∧ f.cause = .pcOutOfBank 253) :=
  ⟨⟨_, _, rfl, rfl, rfl⟩, ⟨_, _, rfl, rfl, rfl, rfl⟩, ⟨_, _, rfl, rfl, ⟨rfl, rfl, rfl⟩, rfl⟩,
    ⟨_, _, rfl, rfl, ⟨rfl, rfl, rfl⟩, rfl⟩, ⟨_, _, rfl, rfl, rfl, rfl⟩⟩

/-- The same under `FAULT_PRIORITY = any`, with two faults that apply. -/
theorem witness_FaultRecordsNameTheFaultingStep_any :
    ∃ t f, edgeAny.status = .running ∧ exec (.saveRrr 1 8 9) edgeAny = .next t ∧ t.status = .faulted f :=
  ⟨_, _, rfl, rfl, rfl⟩

theorem witness_BadRegisterOperandAlwaysFaults :
    ∃ r ∈ (Instr.saveDrr 0 7 8).registerOperands, 8 ≤ r.toNat := ⟨8, by decide, by decide⟩

theorem witness_WellFormedInstructionsNeverNameABadRegister :
    ∃ t f, (Instr.saveRvv 1 0 0).WellFormed = true ∧ edge.status = .running
      ∧ exec (.saveRvv 1 0 0) edge = .next t ∧ t.status = .faulted f := ⟨_, _, by decide, rfl, rfl, rfl⟩

theorem witness_WellFormedInstructionsNeverNameABadRegister_jump :
    (Instr.jmpDv 7 0).WellFormed = true ∧ (Instr.jmpDv 7 0).selectorOperands ≠ [] := by decide

theorem witness_ReportedFaultIsOneThatApplies : edge.params.faultPriority = .order := by decide

theorem witness_FaultPriorityNeverDecidesWhetherAStepFaults :
    (∃ t, last.status = .running ∧ exec (.setRv 1 1) last = .next t ∧ t.Safe = true)
    ∧ ∃ t, edge.status = .running ∧ exec (.setRv 8 1) edge = .next t ∧ t.Safe = false :=
  ⟨⟨_, rfl, rfl, by decide⟩, _, rfl, rfl, rfl⟩

theorem witness_OnlyJumpsChangeTheActiveBank :
    (∃ t, exec (.setRv 1 1) last = .next t ∧ t.Safe = true ∧ (Instr.setRv 1 1).isJump = false)
    ∧ ∃ t, exec (.jmpDv 8 0) last = .next t ∧ t.Safe = true ∧ (Instr.jmpDv 8 0).isJump = true :=
  ⟨⟨_, rfl, by decide, rfl⟩, _, rfl, by decide, rfl⟩

theorem witness_OnlyTheDestinationRegisterChanges :
    ∃ t, exec (.setRv 7 1) last = .next t ∧ t.Safe = true
      ∧ ∀ r, (Instr.setRv 7 1).destination = some r → r.toNat ≠ (0 : Fin 8) := by
  refine ⟨_, rfl, by decide, fun r h => ?_⟩
  cases h
  decide

theorem witness_AluAndCompareWriteOnlyRegisterZero :
    (∃ t, exec (aluInstr .addRv 5 1) last = .next t ∧ t.Safe = true)
    ∧ (∃ t, exec (cmpInstr .grtRv 5 1) last = .next t ∧ t.Safe = true)
    ∧ FallsTo last 255 ∧ (7 : Byte).toNat < 8 ∧ Holds last 0 0 ∧ SelectsBank last ((0 : Sel).setWidth 8) 7
    ∧ HoldsSel last 0 0 ∧ SelectsBank last 0 7 :=
  ⟨⟨_, rfl, by decide⟩, ⟨_, rfl, by decide⟩, by decide⟩

theorem witness_NoInstructionChangesTheParameters :
    ∃ t, exec (.setRv 1 1) last = .next t ∧ t.Safe = true := ⟨_, rfl, by decide⟩

theorem witness_HaltedExactlyByEndOrUnassigned :
    (∃ t, last.status = .running ∧ exec (.endZ 0 0) last = .next t ∧ (Instr.endZ 0 0).isHalt = true)
    ∧ ∃ t, last.status = .running ∧ exec (.setRv 8 0) last = .next t ∧ (Instr.setRv 8 0).isHalt = false :=
  ⟨⟨_, rfl, rfl, rfl⟩, _, rfl, rfl, rfl⟩

theorem witness_StraightLineCodeAdvancesByThree :
    (∃ t, (Instr.setRv 1 1).isJump = false ∧ (Instr.setRv 1 1).isHalt = false ∧ exec (.setRv 1 1) last = .next t
        ∧ t.Safe = true ∧ last.params.pcEdge = .fault)
    ∧ ∃ t, exec (.setRv 1 1) (wrapping edge) = .next t ∧ t.Safe = true :=
  ⟨⟨_, rfl, rfl, rfl, by decide, rfl⟩, _, rfl, by decide⟩

theorem witness_OtherInstructionsDoNotTouchMemory :
    (∀ a : Byte, Memory.read [(5, 1)] (cellAddr last.active a) = last.banks.read (cellAddr last.active a))
    ∧ (∃ t, (Instr.setRv 1 1).touchesMemory = false ∧ exec (.setRv 1 1) last = .next t ∧ last.status = .running
        ∧ t.Safe = true)
    ∧ HoldsSel last 3 8 ∧ SelectsBank last 8 7 ∧ (7 : Byte).toNat < 8 ∧ FallsTo last 255
    ∧ (7 : Byte).toNat = (7 : Fin 8) := by
  refine ⟨fun a => ?_, ⟨_, rfl, rfl, rfl, by decide⟩, by decide⟩
  have h : (5 : Nat) ≠ cellAddr last.active a := by
    have : last.active.toNat = 7 := by decide
    simp only [cellAddr, this]
    omega
  simp only [Memory.read, h, if_false]
  rfl

/-- The state `s` is about to run a SAVE of `v` to cell `a` of the active bank, from a `pc` of at most 250. -/
def aboutToStore (s : State) (a v : Byte) : Bool :=
  decide (s.status = .running) && decide (s.active.toNat < 8) && decide (s.pc.toNat ≤ 250)
    && decide (storeTarget (fetched s) s = some (.ok (s.active, a)))
    && decide (storedByte (fetched s) s = some (.ok v))

/-- From pc = 250: the own bytes 250, 251, 252 and the next instruction's 253, 254, 255, each by another SAVE mode. -/
theorem witness_StoreIsSeenByTheNextFetch :
    aboutToStore (start [] 0x08FA63 (pc := 250)) 250 0x63 = true
    ∧ aboutToStore (start [(2, 9)] 0x10FB02 (pc := 250)) 251 9 = true
    ∧ aboutToStore (start [(1, 252)] 0x180163 (pc := 250)) 252 0x63 = true
    ∧ aboutToStore (start [(1, 253), (2, 9)] 0x200102 (pc := 250)) 253 9 = true
    ∧ aboutToStore (start [(3, 1)] 0x2BFE63 (pc := 250)) 254 0x63 = true
    ∧ aboutToStore (start [(3, 1), (2, 9)] 0x33FF02 (pc := 250)) 255 9 = true := by decide

theorem witness_StoreIsSeenByTheNextFetch_bounds :
    aboutToStore (start [(1, 0)] 0x380163) 0 0x63 = true
    ∧ aboutToStore (start [(1, 3), (2, 0)] 0x400102) 3 0 = true := by decide

/-- Bank 7 cell 255 from pc 0 in bank 7: stored by SAVE RRR, loaded by RRR through selector 0; stored by SAVE DVV
through selector 0, loaded by RVR through selector 8. -/
theorem witness_LoadReturnsTheMostRecentSave :
    let s := at3 regs 0 7
    (∃ t u, storeTarget (.saveRrr 3 6 4) s = some (.ok (7, 255)) ∧ storedByte (.saveRrr 3 6 4) s = some (.ok 200)
      ∧ exec (.saveRrr 3 6 4) s = .next t ∧ t.Safe = true ∧ loadSource (.loadRrr 0 6 1) t = some (.ok (7, 255))
      ∧ (Instr.loadRrr 0 6 1).destination = some 1 ∧ exec (.loadRrr 0 6 1) t = .next u ∧ u.Safe = true)
    ∧ ∃ t u, storeTarget (.saveDvv 0 255 42) s = some (.ok (7, 255)) ∧ storedByte (.saveDvv 0 255 42) s = some (.ok 42)
      ∧ exec (.saveDvv 0 255 42) s = .next t ∧ t.Safe = true ∧ loadSource (.loadRvr 3 255 0) t = some (.ok (7, 255))
      ∧ (Instr.loadRvr 3 255 0).destination = some 0 ∧ exec (.loadRvr 3 255 0) t = .next u ∧ u.Safe = true :=
  ⟨⟨_, _, by decide, by decide, rfl, by decide, by decide, rfl, rfl, by decide⟩,
    _, _, by decide, by decide, rfl, by decide, by decide, rfl, rfl, by decide⟩

/-- The modes DVR and DRR name only banks 0 to 6 and the active one. -/
theorem witness_LoadReturnsTheMostRecentSave_literal :
    storeTarget (.saveDrr 7 6 4) last = some (.ok (6, 255)) ∧ storedByte (.saveDrr 7 6 4) last = some (.ok 200)
    ∧ loadSource (.loadDvr 7 255 1) last = some (.ok (6, 255)) ∧ loadSource (.loadDrr 7 6 1) last = some (.ok (6, 255)) := by
  decide

theorem witness_StopStateIsFinal : ∃ t, step State.reset = .next t ∧ t.status ≠ .running := ⟨_, rfl, by decide⟩

theorem witness_HeldSelectorsBeyondTheMaximumFault :
    (NoBank edge 9 ∧ HoldsSel edge 1 9 ∧ Holds edge 1 9) ∧ (NoBank seven 8 ∧ HoldsSel seven 3 8 ∧ Holds seven 3 8) := by
  decide

theorem witness_NoStepOutsideRunning :
    { last with status := .halted }.status ≠ .running ∧ faulted.status ≠ .running := by decide

end Sys2Proof.Tests
end

section
/-! SUPPORT. The reset state: what a register read and a memory read return in it, and the obligation about it. -/

namespace Sys2Proof.Machine

@[simp] theorem reset_pc : State.reset.pc = 0 := rfl
@[simp] theorem reset_active : State.reset.active = 0 := rfl
@[simp] theorem reset_status : State.reset.status = .running := rfl

/-- Every register reads 0 after reset (R27). -/
@[simp] theorem readX_reset (i : Fin 8) : readX State.reset i = 0 := by
  simp [readX, State.reset]

/-- A cell of a memory that lists nothing holds its reset contents (R55). -/
@[simp] theorem read_nil (a : Nat) : Memory.read [] a = 0 := rfl

/-- Every cell reads 0 after a reset with no image (R55): the reset state lists no cell. -/
@[simp] theorem memRead_reset (b a : Byte) : memRead State.reset b a = 0 :=
  read_nil (cellAddr b a)

/-- Settles O1: the reset state field by field, then a read of each register and of each cell. -/
theorem resetZeroesTheMachine : Obligations.ResetZeroesTheMachine :=
  ⟨readX_reset, reset_pc, reset_active, reset_status, fun b a _ => memRead_reset b a⟩

end Sys2Proof.Machine
end

section
/-! SUPPORT. The engine cycle: reads through a register index, checked or packed (R85), and the obligation about it. -/

namespace Sys2Proof.Machine

/-- An operand byte that is a register index reads that register (R85). -/
theorem reg_of_lt (s : State) (i : Byte) (h : i.toNat < 8) : reg s i = .ok s.x[i.toNat] :=
  (reg_ok_iff s i _).mpr (Vector.getElem?_eq_getElem h)

/-- A packed selector needs no check: the register it names exists (R26). -/
theorem readX_selIndex (s : State) (sel : Sel) : s.x[sel.toNat]? = some (readX s (selIndex sel)) :=
  (holdsSel_iff s sel _).mpr rfl

/-- Settles O21: below 8 the two checks succeed, from 8 up both answer the bad index, and a packed selector has no
check to fail. -/
theorem registerIndicesAreChecked : Obligations.RegisterIndicesAreChecked := by
  intro s i sel
  refine ⟨fun h => ⟨?_, ?_⟩, fun h => ⟨?_, ?_⟩, ?_⟩
  · exact reg_of_lt s i h
  · exact (checkReg_ok_iff i ⟨i.toNat, h⟩).mpr rfl
  · exact reg_bad s i h
  · exact checkReg_bad i h
  · exact (readX_selIndex s sel).symm

end Sys2Proof.Machine
end

section
/-! SUPPORT. The engine cycle: what a state outside Running does (R82, R92), and the obligation about it. -/

namespace Sys2Proof.Machine

/-- Only a running state has a next state (R82). -/
theorem step_ne_next_of_not_running {s : State} (hs : s.status ≠ .running) (t : State) : step s ≠ .next t :=
  fun h => hs (step_cases h).1

/-- The run loop leaves a state outside Running as it is (R92): with fuel left it stops at the status, before any
step. -/
theorem runLoop_of_not_running {s : State} (hs : s.status ≠ .running) (k : Nat) : runLoop k s = .next s := by
  cases k with
  | zero => rfl
  | succ k =>
    rw [runLoop]
    cases hst : s.status with
    | running => exact absurd hst hs
    | halted => rfl
    | faulted f => rfl

/-- Settles O59: a step begins in a running state, and the run loop stops at any other. -/
theorem noStepOutsideRunning : Obligations.NoStepOutsideRunning :=
  fun _ hs => ⟨step_ne_next_of_not_running hs, runLoop_of_not_running hs⟩

end Sys2Proof.Machine
end

section
/-! SUPPORT. The codec: the opcode byte of every row and what the decoder makes of it (spec/30_encoding.md R65 to R73),
and the obligations about it. -/

namespace Sys2Proof

/-! ## The bit fields of an opcode byte -/

theorem toNat_bits_family (op0 : Byte) : (bits op0 3 5).toNat = op0.toNat / 8 := by
  have := op0.isLt
  simp only [bits, BitVec.extractLsb'_toNat, Nat.shiftRight_eq_div_pow]
  omega

/-- A byte is its family and its selector put together (R66): no bit of `op0` is dropped. -/
theorem packed_bits : ∀ op0 : Byte, packed (bits op0 3 5 ++ 0#3) (bits op0 0 3) = op0 := by decide

/-- The base of a packed family gives the byte back from its selector. -/
theorem packed_of_family {op0 : Byte} {k : Nat} (h : (bits op0 3 5).toNat = k) :
    packed (BitVec.ofNat 5 k ++ 0#3) (bits op0 0 3) = op0 := by
  rw [← h, BitVec.ofNat_toNat, BitVec.setWidth_eq]
  exact packed_bits op0

/-! ## The packed families (R66, R69) -/

/-- The instruction of packed family `k`, in the order of R69. -/
def packedInstr (k : Nat) (sel : Sel) (op1 op2 : Byte) : Option Instr :=
  match k with
  | 1 => some (.saveDvv sel op1 op2)
  | 2 => some (.saveDvr sel op1 op2)
  | 3 => some (.saveDrv sel op1 op2)
  | 4 => some (.saveDrr sel op1 op2)
  | 5 => some (.saveRvv sel op1 op2)
  | 6 => some (.saveRvr sel op1 op2)
  | 7 => some (.saveRrv sel op1 op2)
  | 8 => some (.saveRrr sel op1 op2)
  | 9 => some (.loadDvr sel op1 op2)
  | 10 => some (.loadDrr sel op1 op2)
  | 11 => some (.loadRvr sel op1 op2)
  | 12 => some (.loadRrr sel op1 op2)
  | 17 => some (.jzDrv sel op1 op2)
  | 18 => some (.jzDrr sel op1 op2)
  | 19 => some (.jzRrv sel op1 op2)
  | 20 => some (.jzRrr sel op1 op2)
  | 21 => some (.jnzDrv sel op1 op2)
  | 22 => some (.jnzDrr sel op1 op2)
  | 23 => some (.jnzRrv sel op1 op2)
  | 24 => some (.jnzRrr sel op1 op2)
  | 25 => some (.unassignedC8ToCF sel op1 op2)
  | _ => none

/-- The decoder reads a byte of packed family `k` as the family's instruction with the byte's selector. -/
theorem decodeWord_packedInstr {op0 : Byte} {k : Nat} {i : Instr} (p : Params) (op1 op2 : Byte)
    (hk : (bits op0 3 5).toNat = k) (hi : packedInstr k (bits op0 0 3) op1 op2 = some i) :
    decodeWord p op0 op1 op2 = i := by
  unfold packedInstr at hi
  split at hi <;> simp_all [decodeWord]

theorem decodeWord_packed (p : Params) (k : BitVec 5) (sel : Sel) (op1 op2 : Byte) {i : Instr}
    (hi : packedInstr k.toNat sel op1 op2 = some i) : decodeWord p (packed (k ++ 0#3) sel) op1 op2 = i := by
  obtain ⟨hk, hsel⟩ := bits_packed k sel
  exact decodeWord_packedInstr p op1 op2 (congrArg BitVec.toNat hk) (hsel.symm ▸ hi)

/-! ## The flat bytes 0x68 to 0x87 (R69, R70) -/

theorem decodeWord_flat (p : Params) {op0 : Byte} (op1 op2 : Byte) (h : 13 ≤ op0.toNat / 8 ∧ op0.toNat / 8 ≤ 16) :
    decodeWord p op0 op1 op2 = decodeFlat p op0 op1 op2 := by
  rw [← toNat_bits_family] at h
  have : (bits op0 3 5).toNat = 13 ∨ (bits op0 3 5).toNat = 14 ∨ (bits op0 3 5).toNat = 15
      ∨ (bits op0 3 5).toNat = 16 := by omega
  rcases this with h | h | h | h <;> simp [decodeWord, h]

@[simp] theorem opcode_aluInstr (p : Params) (f : AluForm) (op1 op2 : Byte) :
    opcode p (aluInstr f op1 op2) = aluByte p f := by cases f <;> rfl

@[simp] theorem operandBytes_aluInstr (f : AluForm) (op1 op2 : Byte) :
    operandBytes (aluInstr f op1 op2) = (op1, op2) := by cases f <;> rfl

@[simp] theorem opcode_cmpInstr (p : Params) (f : CmpForm) (op1 op2 : Byte) :
    opcode p (cmpInstr f op1 op2) = cmpByte p f := by cases f <;> rfl

@[simp] theorem operandBytes_cmpInstr (f : CmpForm) (op1 op2 : Byte) :
    operandBytes (cmpInstr f op1 op2) = (op1, op2) := by cases f <;> rfl

/-- The decoder reads the byte of an ALU pair as that pair, under every bijection (R70, D2). -/
theorem decodeWord_aluByte (p : Params) (hp : p.wf = true) (f : AluForm) (op1 op2 : Byte) :
    decodeWord p (aluByte p f) op1 op2 = aluInstr f op1 op2 := by
  obtain ⟨hk, hf⟩ := alu_lookup p hp f
  have hb : (aluByte p f).toNat = 0x68 + p.aluMap.toList.idxOf f := by
    simp only [aluByte, BitVec.toNat_ofNat]; omega
  rw [decodeWord_flat p op1 op2 (by omega), decodeFlat, dif_pos (by omega)]
  simp only [hb, Nat.add_sub_cancel_left, hf]

/-- The decoder reads the byte of a compare pair as that pair, under every bijection (R70, D2). -/
theorem decodeWord_cmpByte (p : Params) (hp : p.wf = true) (f : CmpForm) (op1 op2 : Byte) :
    decodeWord p (cmpByte p f) op1 op2 = cmpInstr f op1 op2 := by
  obtain ⟨hk, hf⟩ := cmp_lookup p hp f
  have hb : (cmpByte p f).toNat = 0x75 + p.cmpMap.toList.idxOf f := by
    simp only [cmpByte, BitVec.toNat_ofNat]; omega
  rw [decodeWord_flat p op1 op2 (by omega), decodeFlat, dif_neg (by omega), dif_pos (by omega)]
  simp only [hb, Nat.add_sub_cancel_left, hf]

theorem decodeWord_81 (p : Params) (op1 op2 : Byte) : decodeWord p 0x81 op1 op2 = .setRv op1 op2 := by
  rw [decodeWord_flat p op1 op2 (by decide)]; rfl
theorem decodeWord_82 (p : Params) (op1 op2 : Byte) : decodeWord p 0x82 op1 op2 = .setRr op1 op2 := by
  rw [decodeWord_flat p op1 op2 (by decide)]; rfl
theorem decodeWord_83 (p : Params) (op1 op2 : Byte) : decodeWord p 0x83 op1 op2 = .jmpDv op1 op2 := by
  rw [decodeWord_flat p op1 op2 (by decide)]; rfl
theorem decodeWord_84 (p : Params) (op1 op2 : Byte) : decodeWord p 0x84 op1 op2 = .jmpDr op1 op2 := by
  rw [decodeWord_flat p op1 op2 (by decide)]; rfl
theorem decodeWord_85 (p : Params) (op1 op2 : Byte) : decodeWord p 0x85 op1 op2 = .jmpRv op1 op2 := by
  rw [decodeWord_flat p op1 op2 (by decide)]; rfl
theorem decodeWord_86 (p : Params) (op1 op2 : Byte) : decodeWord p 0x86 op1 op2 = .jmpRr op1 op2 := by
  rw [decodeWord_flat p op1 op2 (by decide)]; rfl
theorem decodeWord_87 (p : Params) (op1 op2 : Byte) : decodeWord p 0x87 op1 op2 = .unassigned87 op1 op2 := by
  rw [decodeWord_flat p op1 op2 (by decide)]; rfl

/-! ## The unassigned rows whose opcode holds fewer or more than three operand bits (R72) -/

theorem decodeWord_00 (p : Params) (op1 op2 : Byte) : decodeWord p 0x00 op1 op2 = .endZ op1 op2 := by
  rfl
theorem decodeWord_01 (p : Params) (op1 op2 : Byte) : decodeWord p 0x01 op1 op2 = .unassigned01 op1 op2 := by
  rfl

theorem decodeWord_02To03 (p : Params) (u : BitVec 1) (op1 op2 : Byte) :
    decodeWord p (0x02 + u.setWidth 8) op1 op2 = .unassigned02To03 u op1 op2 := by
  have key : ∀ u : BitVec 1, (bits (0x02 + u.setWidth 8) 3 5).toNat = 0 ∧ bits (0x02 + u.setWidth 8) 0 1 = u
      ∧ ((bits (0x02 + u.setWidth 8) 0 3).toNat = 2 ∨ (bits (0x02 + u.setWidth 8) 0 3).toNat = 3) := by decide
  obtain ⟨hk, hu, h | h⟩ := key u <;> simp only [decodeWord, hk, decodeLow, hu, h]

theorem decodeWord_04To07 (p : Params) (u : BitVec 2) (op1 op2 : Byte) :
    decodeWord p (0x04 + u.setWidth 8) op1 op2 = .unassigned04To07 u op1 op2 := by
  have key : ∀ u : BitVec 2, (bits (0x04 + u.setWidth 8) 3 5).toNat = 0 ∧ bits (0x04 + u.setWidth 8) 0 2 = u
      ∧ ((bits (0x04 + u.setWidth 8) 0 3).toNat = 4 ∨ (bits (0x04 + u.setWidth 8) 0 3).toNat = 5
        ∨ (bits (0x04 + u.setWidth 8) 0 3).toNat = 6 ∨ (bits (0x04 + u.setWidth 8) 0 3).toNat = 7) := by decide
  obtain ⟨hk, hu, h | h | h | h⟩ := key u <;> simp only [decodeWord, hk, decodeLow, hu, h]

theorem decodeWord_D0ToDF (p : Params) (u : BitVec 4) (op1 op2 : Byte) :
    decodeWord p (0xD0 + u.setWidth 8) op1 op2 = .unassignedD0ToDF u op1 op2 := by
  have key : ∀ u : BitVec 4, bits (0xD0 + u.setWidth 8) 0 4 = u
      ∧ ((bits (0xD0 + u.setWidth 8) 3 5).toNat = 26 ∨ (bits (0xD0 + u.setWidth 8) 3 5).toNat = 27) := by decide
  obtain ⟨hu, h | h⟩ := key u <;> simp only [decodeWord, hu, h]

theorem decodeWord_E0ToFF (p : Params) (u : BitVec 5) (op1 op2 : Byte) :
    decodeWord p (0xE0 + u.setWidth 8) op1 op2 = .unassignedE0ToFF u op1 op2 := by
  have key : ∀ u : BitVec 5, bits (0xE0 + u.setWidth 8) 0 5 = u
      ∧ ((bits (0xE0 + u.setWidth 8) 3 5).toNat = 28 ∨ (bits (0xE0 + u.setWidth 8) 3 5).toNat = 29
        ∨ (bits (0xE0 + u.setWidth 8) 3 5).toNat = 30 ∨ (bits (0xE0 + u.setWidth 8) 3 5).toNat = 31) := by decide
  obtain ⟨hu, h | h | h | h⟩ := key u <;> simp only [decodeWord, hu, h]

/-! ## The round trips -/

/-- Settles O14: each row by the lemma of its part of the opcode map. -/
theorem decodeOfEncodeIsTheInstruction : Obligations.DecodeOfEncodeIsTheInstruction := by
  intro p i hp
  cases i with
  | endZ a b => exact decodeWord_00 p a b
  | unassigned01 a b => exact decodeWord_01 p a b
  | setRv a b => exact decodeWord_81 p a b
  | setRr a b => exact decodeWord_82 p a b
  | jmpDv a b => exact decodeWord_83 p a b
  | jmpDr a b => exact decodeWord_84 p a b
  | jmpRv a b => exact decodeWord_85 p a b
  | jmpRr a b => exact decodeWord_86 p a b
  | unassigned87 a b => exact decodeWord_87 p a b
  | unassigned02To03 u a b => exact decodeWord_02To03 p u a b
  | unassigned04To07 u a b => exact decodeWord_04To07 p u a b
  | unassignedD0ToDF u a b => exact decodeWord_D0ToDF p u a b
  | unassignedE0ToFF u a b => exact decodeWord_E0ToFF p u a b
  | addRv a b => exact decodeWord_aluByte p hp .addRv a b
  | addRr a b => exact decodeWord_aluByte p hp .addRr a b
  | subRv a b => exact decodeWord_aluByte p hp .subRv a b
  | subRr a b => exact decodeWord_aluByte p hp .subRr a b
  | subVr a b => exact decodeWord_aluByte p hp .subVr a b
  | orRv a b => exact decodeWord_aluByte p hp .orRv a b
  | orRr a b => exact decodeWord_aluByte p hp .orRr a b
  | xorRv a b => exact decodeWord_aluByte p hp .xorRv a b
  | xorRr a b => exact decodeWord_aluByte p hp .xorRr a b
  | norRv a b => exact decodeWord_aluByte p hp .norRv a b
  | norRr a b => exact decodeWord_aluByte p hp .norRr a b
  | andRv a b => exact decodeWord_aluByte p hp .andRv a b
  | andRr a b => exact decodeWord_aluByte p hp .andRr a b
  | grtRv a b => exact decodeWord_cmpByte p hp .grtRv a b
  | grtRr a b => exact decodeWord_cmpByte p hp .grtRr a b
  | lstRv a b => exact decodeWord_cmpByte p hp .lstRv a b
  | lstRr a b => exact decodeWord_cmpByte p hp .lstRr a b
  | greqtRv a b => exact decodeWord_cmpByte p hp .greqtRv a b
  | greqtRr a b => exact decodeWord_cmpByte p hp .greqtRr a b
  | lseqtRv a b => exact decodeWord_cmpByte p hp .lseqtRv a b
  | lseqtRr a b => exact decodeWord_cmpByte p hp .lseqtRr a b
  | eqlRv a b => exact decodeWord_cmpByte p hp .eqlRv a b
  | eqlRr a b => exact decodeWord_cmpByte p hp .eqlRr a b
  | neqlRv a b => exact decodeWord_cmpByte p hp .neqlRv a b
  | neqlRr a b => exact decodeWord_cmpByte p hp .neqlRr a b
  | saveDvv d a b => exact decodeWord_packed p 1 d a b rfl
  | saveDvr d a b => exact decodeWord_packed p 2 d a b rfl
  | saveDrv d a b => exact decodeWord_packed p 3 d a b rfl
  | saveDrr d a b => exact decodeWord_packed p 4 d a b rfl
  | saveRvv d a b => exact decodeWord_packed p 5 d a b rfl
  | saveRvr d a b => exact decodeWord_packed p 6 d a b rfl
  | saveRrv d a b => exact decodeWord_packed p 7 d a b rfl
  | saveRrr d a b => exact decodeWord_packed p 8 d a b rfl
  | loadDvr d a b => exact decodeWord_packed p 9 d a b rfl
  | loadDrr d a b => exact decodeWord_packed p 10 d a b rfl
  | loadRvr d a b => exact decodeWord_packed p 11 d a b rfl
  | loadRrr d a b => exact decodeWord_packed p 12 d a b rfl
  | jzDrv d a b => exact decodeWord_packed p 17 d a b rfl
  | jzDrr d a b => exact decodeWord_packed p 18 d a b rfl
  | jzRrv d a b => exact decodeWord_packed p 19 d a b rfl
  | jzRrr d a b => exact decodeWord_packed p 20 d a b rfl
  | jnzDrv d a b => exact decodeWord_packed p 21 d a b rfl
  | jnzDrr d a b => exact decodeWord_packed p 22 d a b rfl
  | jnzRrv d a b => exact decodeWord_packed p 23 d a b rfl
  | jnzRrr d a b => exact decodeWord_packed p 24 d a b rfl
  | unassignedC8ToCF d a b => exact decodeWord_packed p 25 d a b rfl

/-- Each unassigned byte of more than one value is its row's base and its low bits (R72). -/
theorem eq_base_add_bits : ∀ b : Byte,
    (b.toNat / 2 = 1 → b = 0x02 + (bits b 0 1).setWidth 8) ∧ (b.toNat / 4 = 1 → b = 0x04 + (bits b 0 2).setWidth 8)
      ∧ (b.toNat / 16 = 13 → b = 0xD0 + (bits b 0 4).setWidth 8)
      ∧ (b.toNat / 32 = 7 → b = 0xE0 + (bits b 0 5).setWidth 8) := by decide

/-- A word of packed family `k` is the encoding of the family's instruction. -/
theorem encode_packedInstr (p : Params) {k : Nat} {sel : Sel} {op1 op2 : Byte} {i : Instr}
    (hi : packedInstr k sel op1 op2 = some i) :
    encode p i = (packed (BitVec.ofNat 5 k ++ 0#3) sel, op1, op2) := by
  unfold packedInstr at hi
  split at hi <;> cases hi <;> rfl

theorem exists_packedInstr {k : Nat} (sel : Sel) (op1 op2 : Byte) (h : 1 ≤ k ∧ k ≤ 12 ∨ 17 ≤ k ∧ k ≤ 25) :
    ∃ i, packedInstr k sel op1 op2 = some i := by
  rcases h with ⟨h1, h2⟩ | ⟨h1, h2⟩ <;> interval_cases k <;> exact ⟨_, rfl⟩

/-- No word is left out of the encoding (R73): `op0` is packed, an ALU or compare byte, another flat byte, or in one
of the unassigned rows. -/
theorem exists_encode_eq (p : Params) (hp : p.wf = true) (op0 op1 op2 : Byte) : ∃ i, encode p i = (op0, op1, op2) := by
  have hlt := op0.isLt
  obtain ⟨e1, e2, e4, e5⟩ := eq_base_add_bits op0
  have same {c : Byte} (h : op0.toNat = c.toNat) : (c, op1, op2) = (op0, op1, op2) :=
    congrArg (·, op1, op2) (BitVec.eq_of_toNat_eq h.symm)
  rcases (by omega : (1 ≤ op0.toNat / 8 ∧ op0.toNat / 8 ≤ 12 ∨ 17 ≤ op0.toNat / 8 ∧ op0.toNat / 8 ≤ 25)
    ∨ (0x68 ≤ op0.toNat ∧ op0.toNat < 0x75) ∨ (0x75 ≤ op0.toNat ∧ op0.toNat < 0x81)
    ∨ op0.toNat = 0x81 ∨ op0.toNat = 0x82 ∨ op0.toNat = 0x83 ∨ op0.toNat = 0x84 ∨ op0.toNat = 0x85
    ∨ op0.toNat = 0x86 ∨ op0.toNat = 0x87 ∨ op0.toNat = 0 ∨ op0.toNat = 1 ∨ op0.toNat / 2 = 1
    ∨ op0.toNat / 4 = 1 ∨ op0.toNat / 16 = 13 ∨ op0.toNat / 32 = 7)
    with h | h | h | h | h | h | h | h | h | h | h | h | h | h | h | h
  · obtain ⟨i, hi⟩ := exists_packedInstr (bits op0 0 3) op1 op2 h
    exact ⟨i, by rw [encode_packedInstr p hi, packed_of_family (toNat_bits_family op0)]⟩
  · refine ⟨aluInstr (p.aluMap[op0.toNat - 0x68]'(by omega)) op1 op2, ?_⟩
    rw [encode, opcode_aluInstr, operandBytes_aluInstr, aluByte_getElem p hp]
    exact same (by simp only [BitVec.toNat_ofNat]; omega)
  · refine ⟨cmpInstr (p.cmpMap[op0.toNat - 0x75]'(by omega)) op1 op2, ?_⟩
    rw [encode, opcode_cmpInstr, operandBytes_cmpInstr, cmpByte_getElem p hp]
    exact same (by simp only [BitVec.toNat_ofNat]; omega)
  · exact ⟨.setRv op1 op2, same h⟩
  · exact ⟨.setRr op1 op2, same h⟩
  · exact ⟨.jmpDv op1 op2, same h⟩
  · exact ⟨.jmpDr op1 op2, same h⟩
  · exact ⟨.jmpRv op1 op2, same h⟩
  · exact ⟨.jmpRr op1 op2, same h⟩
  · exact ⟨.unassigned87 op1 op2, same h⟩
  · exact ⟨.endZ op1 op2, same h⟩
  · exact ⟨.unassigned01 op1 op2, same h⟩
  · exact ⟨.unassigned02To03 (bits op0 0 1) op1 op2, congrArg (·, op1, op2) (e1 h).symm⟩
  · exact ⟨.unassigned04To07 (bits op0 0 2) op1 op2, congrArg (·, op1, op2) (e2 h).symm⟩
  · exact ⟨.unassignedD0ToDF (bits op0 0 4) op1 op2, congrArg (·, op1, op2) (e4 h).symm⟩
  · exact ⟨.unassignedE0ToFF (bits op0 0 5) op1 op2, congrArg (·, op1, op2) (e5 h).symm⟩

/-- Settles O15: every word is the encoding of some instruction, which the decoder gives back (O14). -/
theorem encodeOfDecodeIsTheWord : Obligations.EncodeOfDecodeIsTheWord := by
  intro p op0 op1 op2 hp
  obtain ⟨i, hi⟩ := exists_encode_eq p hp op0 op1 op2
  have h := congrArg (encode p) (decodeOfEncodeIsTheInstruction p i hp)
  rwa [hi] at h

/-! ## The opcode map read off the decoder (R69, R72) -/

/-- Settles O18: each packed range is its family, and each flat byte is looked up by its number. -/
theorem assignedRangesDecodeAsTheTable : Obligations.AssignedRangesDecodeAsTheTable := by
  intro p sel op1 op2
  have packed (k : BitVec 5) {i : Instr} (hi : packedInstr k.toNat sel op1 op2 = some i) :=
    decodeWord_packed p k sel op1 op2 hi
  exact ⟨packed 1 rfl, packed 2 rfl, packed 3 rfl, packed 4 rfl, packed 5 rfl, packed 6 rfl, packed 7 rfl,
    packed 8 rfl, packed 9 rfl, packed 10 rfl, packed 11 rfl, packed 12 rfl, decodeWord_81 p op1 op2,
    decodeWord_82 p op1 op2, decodeWord_83 p op1 op2, decodeWord_84 p op1 op2, decodeWord_85 p op1 op2,
    decodeWord_86 p op1 op2, packed 17 rfl, packed 18 rfl, packed 19 rfl, packed 20 rfl, packed 21 rfl,
    packed 22 rfl, packed 23 rfl, packed 24 rfl⟩

theorem isHalt_aluInstr (f : AluForm) (op1 op2 : Byte) : (aluInstr f op1 op2).isHalt = false := by cases f <;> rfl

theorem isHalt_cmpInstr (f : CmpForm) (op1 op2 : Byte) : (cmpInstr f op1 op2).isHalt = false := by cases f <;> rfl

theorem isHalt_decodeFlat (p q : Params) (op0 a b c d : Byte) :
    (decodeFlat p op0 a b).isHalt = (decodeFlat q op0 c d).isHalt := by
  unfold decodeFlat
  split
  · rw [isHalt_aluInstr, isHalt_aluInstr]
  · split
    · rw [isHalt_cmpInstr, isHalt_cmpInstr]
    · split <;> rfl

/-- Whether a word halts the machine depends on `op0` alone: not on the operand bytes and not on the opcode map. -/
theorem isHalt_decodeWord_congr (p q : Params) (op0 a b c d : Byte) :
    (decodeWord p op0 a b).isHalt = (decodeWord q op0 c d).isHalt := by
  unfold decodeWord
  split
  case h_1 => unfold decodeLow; split <;> rfl
  case h_14 | h_15 | h_16 | h_17 => exact isHalt_decodeFlat p q op0 a b c d
  all_goals rfl

theorem isHalt_decodeWord_default : ∀ op0 : Byte, (decodeWord Params.default op0 0 0).isHalt = true ↔
    (op0.toNat ≤ 0x07 ∨ op0.toNat = 0x87 ∨ 0xC8 ≤ op0.toNat) := by decide

/-- The opcode bytes that halt the machine (R72). -/
theorem isHalt_decodeWord (p : Params) (op0 op1 op2 : Byte) : (decodeWord p op0 op1 op2).isHalt = true ↔
    (op0.toNat ≤ 0x07 ∨ op0.toNat = 0x87 ∨ 0xC8 ≤ op0.toNat) := by
  rw [isHalt_decodeWord_congr p Params.default op0 op1 op2 0 0, isHalt_decodeWord_default]

theorem isHalt_decodeWord_ofNat (p : Params) (op1 op2 : Byte) (n : Nat) :
    (decodeWord p (BitVec.ofNat 8 n) op1 op2).isHalt
      = decide (n % 256 ≤ 0x07 ∨ n % 256 = 0x87 ∨ 0xC8 ≤ n % 256) := by
  rw [Bool.eq_iff_iff, isHalt_decodeWord, BitVec.toNat_ofNat, decide_eq_true_iff]

/-- The count of the halting bytes, taken in two halves of the 256 values. -/
theorem countP_haltByte :
    (List.range 256).countP (fun n => decide (n % 256 ≤ 0x07 ∨ n % 256 = 0x87 ∨ 0xC8 ≤ n % 256)) = 65 := by
  have halves : List.range 256 = List.range 128 ++ (List.range 128).map (128 + ·) :=
    List.range_add (n := 128) (m := 128)
  rw [halves, List.countP_append, List.countP_map]
  decide

/-- Settles O17: the halting bytes, their count, and the rest of the 256 values. -/
theorem unassignedOpcodesDecodeAsEnd : Obligations.UnassignedOpcodesDecodeAsEnd := by
  refine ⟨isHalt_decodeWord, fun p op1 op2 => ?_⟩
  have halting : (List.range 256).countP (fun n => (decodeWord p (BitVec.ofNat 8 n) op1 op2).isHalt) = 65 := by
    simpa only [isHalt_decodeWord_ofNat] using countP_haltByte
  have all := List.length_eq_countP_add_countP (fun n => (decodeWord p (BitVec.ofNat 8 n) op1 op2).isHalt)
    (l := List.range 256)
  simp only [List.length_range, halting, Bool.not_eq_true, Bool.decide_eq_false] at all
  exact ⟨halting, by omega, decodeWord_packed p 24 7 op1 op2 rfl⟩

/-- Settles O16: the decoder evaluated on each word. -/
theorem sampleWordsDecodeAsTheSpecSays : Obligations.SampleWordsDecodeAsTheSpecSays := by
  unfold Obligations.SampleWordsDecodeAsTheSpecSays
  decide

end Sys2Proof
end

section
/-! SUPPORT. The eight shapes of an instruction, read off exec once: which shared operation of the model it calls and with
which operands. Every later fact over all 59 constructors is proved over the eight shapes. -/

namespace Sys2Proof.Machine

/-! ## Operands and shapes -/

/-- A source operand as its mode letter says it: a literal, the register an operand byte names, or the register a
packed field names (R67, R86). -/
inductive Operand where
  | lit (v : Byte)
  | reg (r : Byte)
  | held (rd : Sel)

/-- The value of an operand, with the check that reading it makes. -/
def Operand.value (s : State) : Operand → Checked Byte
  | .lit v => literal v
  | .reg r => source s r
  | .held rd => .ok (readX s (selIndex rd))

/-- An operand has value `v`: it is that literal, or names a register that holds `v`. -/
def Operand.Is (s : State) (v : Byte) : Operand → Prop
  | .lit w => w = v
  | .reg r => Holds s r v
  | .held rd => readX s (selIndex rd) = v

theorem value_ok_iff (s : State) (o : Operand) (v : Byte) : o.value s = .ok v ↔ o.Is s v := by
  cases o with
  | lit w => exact literal_ok_iff w v
  | reg r => exact source_ok_iff s r v
  | held rd => exact ⟨Checked.ok.inj, congrArg Checked.ok⟩

/-- The bank that an operand selects (R45, R46). -/
def Operand.bank (s : State) (o : Operand) : Checked Byte := (o.value s).bind fun d => resolve s.params d s.active

/-- The operand bytes of an operand that must name a register. -/
def Operand.registers : Operand → List Byte
  | .lit _ => []
  | .reg r => [r]
  | .held _ => []

/-- The shape of an instruction: the shared operation that gives it its meaning, and its operands. -/
inductive Shape where
  | save (sel index value : Operand)
  | load (sel index : Operand) (dst : Byte)
  | set (dst : Byte) (value : Operand)
  | alu (op : AluOp) (a b : Operand)
  | compare (rel : CmpRel) (a b : Operand)
  | branch (taken : Byte → Bool) (sel cond target : Operand)
  | jump (sel target : Operand)
  | halt

/-- The shape of each instruction (R68, R96, R97, R110 to R112, R128, R142, R157, R158). -/
def shape : Instr → Shape
  | .endZ _ _ | .unassigned01 _ _ | .unassigned02To03 _ _ _ | .unassigned04To07 _ _ _ | .unassigned87 _ _ => .halt
  | .unassignedC8ToCF _ _ _ | .unassignedD0ToDF _ _ _ | .unassignedE0ToFF _ _ _ => .halt
  | .saveDvv d idx v => .save (.lit (d.setWidth 8)) (.lit idx) (.lit v)
  | .saveDvr d idx r => .save (.lit (d.setWidth 8)) (.lit idx) (.reg r)
  | .saveDrv d ri v => .save (.lit (d.setWidth 8)) (.reg ri) (.lit v)
  | .saveDrr d ri r => .save (.lit (d.setWidth 8)) (.reg ri) (.reg r)
  | .saveRvv rd idx v => .save (.held rd) (.lit idx) (.lit v)
  | .saveRvr rd idx r => .save (.held rd) (.lit idx) (.reg r)
  | .saveRrv rd ri v => .save (.held rd) (.reg ri) (.lit v)
  | .saveRrr rd ri r => .save (.held rd) (.reg ri) (.reg r)
  | .loadDvr d idx r => .load (.lit (d.setWidth 8)) (.lit idx) r
  | .loadDrr d ri r => .load (.lit (d.setWidth 8)) (.reg ri) r
  | .loadRvr rd idx r => .load (.held rd) (.lit idx) r
  | .loadRrr rd ri r => .load (.held rd) (.reg ri) r
  | .setRv r v => .set r (.lit v)
  | .setRr r r2 => .set r (.reg r2)
  | .addRv r v => .alu .add (.reg r) (.lit v)
  | .addRr r r2 => .alu .add (.reg r) (.reg r2)
  | .subRv r v => .alu .sub (.reg r) (.lit v)
  | .subRr r r2 => .alu .sub (.reg r) (.reg r2)
  | .subVr v r => .alu .sub (.lit v) (.reg r)
  | .orRv r v => .alu .or (.reg r) (.lit v)
  | .orRr r r2 => .alu .or (.reg r) (.reg r2)
  | .xorRv r v => .alu .xor (.reg r) (.lit v)
  | .xorRr r r2 => .alu .xor (.reg r) (.reg r2)
  | .norRv r v => .alu .nor (.reg r) (.lit v)
  | .norRr r r2 => .alu .nor (.reg r) (.reg r2)
  | .andRv r v => .alu .and (.reg r) (.lit v)
  | .andRr r r2 => .alu .and (.reg r) (.reg r2)
  | .grtRv r v => .compare .grt (.reg r) (.lit v)
  | .grtRr r r2 => .compare .grt (.reg r) (.reg r2)
  | .lstRv r v => .compare .lst (.reg r) (.lit v)
  | .lstRr r r2 => .compare .lst (.reg r) (.reg r2)
  | .greqtRv r v => .compare .greqt (.reg r) (.lit v)
  | .greqtRr r r2 => .compare .greqt (.reg r) (.reg r2)
  | .lseqtRv r v => .compare .lseqt (.reg r) (.lit v)
  | .lseqtRr r r2 => .compare .lseqt (.reg r) (.reg r2)
  | .eqlRv r v => .compare .eql (.reg r) (.lit v)
  | .eqlRr r r2 => .compare .eql (.reg r) (.reg r2)
  | .neqlRv r v => .compare .neql (.reg r) (.lit v)
  | .neqlRr r r2 => .compare .neql (.reg r) (.reg r2)
  | .jzDrv d c t => .branch takenIfZero (.lit (d.setWidth 8)) (.reg c) (.lit t)
  | .jzDrr d c t => .branch takenIfZero (.lit (d.setWidth 8)) (.reg c) (.reg t)
  | .jzRrv rd c t => .branch takenIfZero (.held rd) (.reg c) (.lit t)
  | .jzRrr rd c t => .branch takenIfZero (.held rd) (.reg c) (.reg t)
  | .jnzDrv d c t => .branch takenIfNonZero (.lit (d.setWidth 8)) (.reg c) (.lit t)
  | .jnzDrr d c t => .branch takenIfNonZero (.lit (d.setWidth 8)) (.reg c) (.reg t)
  | .jnzRrv rd c t => .branch takenIfNonZero (.held rd) (.reg c) (.lit t)
  | .jnzRrr rd c t => .branch takenIfNonZero (.held rd) (.reg c) (.reg t)
  | .jmpDv d t => .jump (.lit d) (.lit t)
  | .jmpDr d t => .jump (.lit d) (.reg t)
  | .jmpRv rd t => .jump (.reg rd) (.lit t)
  | .jmpRr rd t => .jump (.reg rd) (.reg t)

/-- The meaning of a shape, as that of instruction `i`. -/
def Shape.run (i : Instr) (s : State) : Shape → StepOutcome
  | .save sel index value => saveWith i s (sel.bank s) (index.value s) (value.value s)
  | .load sel index dst => loadWith i s (sel.bank s) (index.value s) (dest dst)
  | .set dst value => setWith i s (dest dst) (value.value s)
  | .alu op a b => aluWith i s op (a.value s) (b.value s)
  | .compare rel a b => compareWith i s rel (a.value s) (b.value s)
  | .branch taken sel cond target => branchWith i s taken (sel.bank s) (cond.value s) (target.value s)
  | .jump sel target => jumpWith i s (sel.bank s) (target.value s)
  | .halt => haltNow s

/-- The operand bytes that name a register, in operand order. -/
def Shape.registers : Shape → List Byte
  | .save sel index value => sel.registers ++ (index.registers ++ value.registers)
  | .load sel index dst => sel.registers ++ (index.registers ++ [dst])
  | .set dst value => [dst] ++ value.registers
  | .alu _ a b | .compare _ a b => a.registers ++ b.registers
  | .branch _ sel cond target => sel.registers ++ (cond.registers ++ target.registers)
  | .jump sel target => sel.registers ++ target.registers
  | .halt => []

/-- The operand that selects a bank. -/
def Shape.selector : Shape → Option Operand
  | .save sel _ _ | .load sel _ _ | .branch _ sel _ _ | .jump sel _ => some sel
  | .set _ _ | .alu _ _ _ | .compare _ _ _ | .halt => none

/-- JZ, JNZ and JMP (R33). -/
def Shape.isJump : Shape → Bool
  | .branch _ _ _ _ | .jump _ _ => true
  | .save _ _ _ | .load _ _ _ | .set _ _ | .alu _ _ _ | .compare _ _ _ | .halt => false

/-- SAVE and LOAD (R44). -/
def Shape.touchesMemory : Shape → Bool
  | .save _ _ _ | .load _ _ _ => true
  | .set _ _ | .alu _ _ _ | .compare _ _ _ | .branch _ _ _ _ | .jump _ _ | .halt => false

/-! ## The shape of an instruction says what the instruction is -/

/-- An instruction means what its shape means. -/
theorem exec_eq_run (i : Instr) (s : State) : exec i s = (shape i).run i s := by cases i <;> rfl

theorem registerOperands_eq (i : Instr) : i.registerOperands = (shape i).registers := by cases i <;> rfl

/-- The selector an instruction resolves is the value of its selecting operand. -/
theorem resolvedSelector_eq_some {i : Instr} {s : State} {d : Byte} :
    resolvedSelector i s = some d ↔ ∃ o, (shape i).selector = some o ∧ o.value s = .ok d := by
  cases i <;> simp [shape, Shape.selector, resolvedSelector, Operand.value]

theorem isHalt_iff (i : Instr) : i.isHalt = true ↔ shape i = .halt := by cases i <;> simp [shape, Instr.isHalt]

theorem isJump_eq (i : Instr) : i.isJump = (shape i).isJump := by cases i <;> rfl

theorem touchesMemory_eq (i : Instr) : i.touchesMemory = (shape i).touchesMemory := by cases i <;> rfl

/-- The operands of an arithmetic or logic shape are the instruction's operands (R112). -/
theorem aluOperands_of_shape {i : Instr} {s : State} {op : AluOp} {a b : Operand} {u v : Byte}
    (hi : shape i = .alu op a b) (ha : a.value s = .ok u) (hb : b.value s = .ok v) : AluOperands i s op u v := by
  cases i <;> cases hi <;> exact ⟨rfl, (value_ok_iff s _ u).mp ha, (value_ok_iff s _ v).mp hb⟩

/-- The operands of a comparing shape are the instruction's operands (R128). -/
theorem cmpOperands_of_shape {i : Instr} {s : State} {rel : CmpRel} {a b : Operand} {u v : Byte}
    (hi : shape i = .compare rel a b) (ha : a.value s = .ok u) (hb : b.value s = .ok v) : CmpOperands i s rel u v := by
  cases i <;> cases hi <;> exact ⟨rfl, (value_ok_iff s _ u).mp ha, (value_ok_iff s _ v).mp hb⟩

end Sys2Proof.Machine
end

section
/-! SUPPORT. The faults that apply to an instruction (log entry 6), the first one reached in front, as one list over the
eight shapes; that an instruction faults exactly where the list is not empty; and the obligations about which fault. -/

namespace Sys2Proof.Machine

/-! ## The checks of one operand -/

@[simp] theorem value_lit (s : State) (v : Byte) : (Operand.lit v).value s = .ok v := rfl
@[simp] theorem value_held (s : State) (rd : Sel) : (Operand.held rd).value s = .ok (readX s (selIndex rd)) := rfl

theorem value_reg_of_holds {s : State} {r v : Byte} (h : Holds s r v) : (Operand.reg r).value s = .ok v :=
  (source_ok_iff s r v).mpr h

theorem value_reg_of_noRegister (s : State) {r : Byte} (h : NoRegister r) :
    (Operand.reg r).value s = .bad (.registerOutOfRange r) [] := reg_bad s r h

theorem lt_of_holds {s : State} {r v : Byte} (h : Holds s r v) : r.toNat < 8 := by
  by_contra hn
  simp [Holds, Vector.getElem?_eq_none (Nat.not_lt.mp hn)] at h

theorem holds_or_noRegister (s : State) (r : Byte) : (∃ v, Holds s r v) ∨ NoRegister r := by
  by_cases h : r.toNat < 8
  · exact .inl ⟨_, Vector.getElem?_eq_getElem h⟩
  · exact .inr (Nat.not_lt.mp h)

theorem selectsBank_lt {s : State} {d b : Byte} (ha : s.active.toNat < 8) (h : SelectsBank s d b) : b.toNat < 8 := by
  have := selectorMax_le s.params.selectorMax
  rcases h with ⟨-, rfl⟩ | ⟨-, h1, h2⟩ <;> omega

/-- A selector names a bank unless it is above `SELECTOR_MAX` (R45, R46). -/
theorem exists_selectsBank {s : State} {d : Byte} (h : ¬ NoBank s d) : ∃ b, SelectsBank s d b := by
  by_cases h0 : d = 0
  · exact ⟨s.active, .inl ⟨h0, rfl⟩⟩
  · have h1 : d.toNat ≠ 0 := fun h => h0 (BitVec.eq_of_toNat_eq h)
    have hd := d.isLt
    refine ⟨d - 1, .inr ⟨Nat.one_le_iff_ne_zero.mpr h1, Nat.not_lt.mp h, ?_⟩⟩
    rw [BitVec.toNat_sub, show (1 : Byte).toNat = 1 from rfl]
    omega

/-- The faults of bad registers among the operand bytes `rs`. -/
def registerFaults (rs : List Byte) : List Cause := (rs.filter (8 ≤ ·.toNat)).map .registerOutOfRange

theorem registerFaults_append (rs qs : List Byte) : registerFaults (rs ++ qs) = registerFaults rs ++ registerFaults qs := by
  simp [registerFaults]

theorem registerFaults_of_lt {r : Byte} (h : r.toNat < 8) : registerFaults [r] = [] := by
  simp [registerFaults, h]

theorem registerFaults_of_noRegister {r : Byte} (h : NoRegister r) : registerFaults [r] = [.registerOutOfRange r] := by
  simp [registerFaults, h]

/-- The check of an operand fails in one way only: its byte names no register. -/
theorem causes_value (s : State) (o : Operand) : (o.value s).causes = registerFaults o.registers := by
  cases o with
  | lit v => rfl
  | held rd => rfl
  | reg r =>
    rcases holds_or_noRegister s r with ⟨v, h⟩ | h
    · rw [value_reg_of_holds h]
      exact (registerFaults_of_lt (lt_of_holds h)).symm
    · rw [value_reg_of_noRegister s h]
      exact (registerFaults_of_noRegister h).symm

/-- The check of a destination fails in the same way. -/
theorem causes_dest (r : Byte) : (dest r).causes = registerFaults [r] := by
  by_cases h : r.toNat < 8
  · rw [(dest_ok_iff r ⟨r.toNat, h⟩).mpr rfl]
    exact (registerFaults_of_lt h).symm
  · rw [dest, checkReg_bad r (Nat.not_lt.mp h)]
    exact (registerFaults_of_noRegister (Nat.not_lt.mp h)).symm

/-! ## The check of a selecting operand -/

theorem bank_ok_iff (s : State) (o : Operand) (b : Byte) :
    o.bank s = .ok b ↔ ∃ d, o.value s = .ok d ∧ SelectsBank s d b := by
  simp only [Operand.bank, bind_ok_iff, resolve_ok_iff]

theorem bank_of_noBank {s : State} {o : Operand} {d : Byte} (hv : o.value s = .ok d) (hd : NoBank s d) :
    o.bank s = .bad (.bankOutOfRange d) [] := by
  rw [Operand.bank, hv, bind_ok, resolve_bad s d hd]

/-- Where the value of a selecting operand, if it has one, names a bank, only its register can be bad. -/
theorem causes_bank_of_good {s : State} {o : Operand} (h : ∀ d, o.value s = .ok d → ¬ NoBank s d) :
    (o.bank s).causes = (o.value s).causes := by
  cases hv : o.value s with
  | bad first rest => simp [Operand.bank, hv]
  | ok d =>
    obtain ⟨b, hb⟩ := exists_selectsBank (h d hv)
    simp [(bank_ok_iff s o b).mpr ⟨d, hv, hb⟩]

/-- A selected bank exists while the active one does (R33). -/
theorem bank_lt {s : State} {o : Operand} {b : Byte} (ha : s.active.toNat < 8) (h : o.bank s = .ok b) : b.toNat < 8 := by
  obtain ⟨d, -, hd⟩ := (bank_ok_iff s o b).mp h
  exact selectsBank_lt ha hd

/-! ## The faults that apply -/

/-- The faults that the operands of a shape raise, in the order of R91. -/
def Shape.operandFaults (s : State) : Shape → List Cause
  | .save sel index value => (sel.bank s).causes ++ ((index.value s).causes ++ (value.value s).causes)
  | .load sel index dst => (sel.bank s).causes ++ ((index.value s).causes ++ (dest dst).causes)
  | .set dst value => (dest dst).causes ++ (value.value s).causes
  | .alu op a b => (((a.value s).both (b.value s)).bind fun (u, v) => Machine.alu op u v).causes
  | .compare _ a b => (a.value s).causes ++ (b.value s).causes
  | .branch _ sel cond target => (sel.bank s).causes ++ ((cond.value s).causes ++ (target.value s).causes)
  | .jump sel target => (sel.bank s).causes ++ (target.value s).causes
  | .halt => []

/-- The fault of the fall-through of a shape (R88): a jump has none, and a branch one only where it is not taken. -/
def Shape.edgeFaults (s : State) : Shape → List Cause
  | .save _ _ _ | .load _ _ _ | .set _ _ | .alu _ _ _ | .compare _ _ _ => (fallThrough s).causes
  | .branch taken _ cond _ => (untaken s taken (cond.value s)).causes
  | .jump _ _ | .halt => []

/-- The faults that apply to instruction `i` in `s`, the one reached first in front (R91; log entry 6). -/
def faultsOf (i : Instr) (s : State) : List Cause := (shape i).operandFaults s ++ (shape i).edgeFaults s

theorem existing_next {b : Byte} {u t : State}
    (h : (if bankExists b then .next u else .fault (.noSuchBank b) : StepOutcome) = .next t) : u = t := by
  split at h
  · exact Host.Outcome.next.inj h
  · cases h

/-- An instruction that is no halt is a commit: its checks raise the faults that apply, and where they raise none its
writes keep the status and, with an existing active bank, go through. -/
theorem run_eq_commit (i : Instr) (s : State) {sh : Shape} (hsh : sh ≠ .halt) :
    ∃ (α : Type) (c : Checked α) (k : α → StepOutcome), sh.run i s = commit i s c k
      ∧ c.causes = sh.operandFaults s ++ sh.edgeFaults s
      ∧ (∀ v t, k v = .next t → t.status = s.status)
      ∧ (s.active.toNat < 8 → ∀ v, c = .ok v → ∃ t, k v = .next t) := by
  cases sh with
  | save sel index value =>
    refine ⟨_, _, _, rfl, by simp [Shape.operandFaults, Shape.edgeFaults], ?_, ?_⟩
    · rintro ⟨b, a, v, n⟩ t h
      exact existing_next h ▸ rfl
    · rintro ha ⟨b, a, v, n⟩ h
      simp only [both_ok_iff] at h
      exact ⟨_, if_pos (decide_eq_true (bank_lt ha h.1))⟩
  | load sel index dst =>
    refine ⟨_, _, _, rfl, by simp [Shape.operandFaults, Shape.edgeFaults], ?_, ?_⟩
    · rintro ⟨b, a, r, n⟩ t h
      exact existing_next h ▸ rfl
    · rintro ha ⟨b, a, r, n⟩ h
      simp only [both_ok_iff] at h
      exact ⟨_, if_pos (decide_eq_true (bank_lt ha h.1))⟩
  | set dst value =>
    refine ⟨_, _, _, rfl, by simp [Shape.operandFaults, Shape.edgeFaults], ?_, fun _ _ _ => ⟨_, rfl⟩⟩
    rintro v t ⟨⟩
    rfl
  | alu op a b =>
    refine ⟨_, _, _, rfl, by simp [Shape.operandFaults, Shape.edgeFaults], ?_, fun _ _ _ => ⟨_, rfl⟩⟩
    rintro v t ⟨⟩
    rfl
  | compare rel a b =>
    refine ⟨_, _, _, rfl, by simp [Shape.operandFaults, Shape.edgeFaults], ?_, fun _ _ _ => ⟨_, rfl⟩⟩
    rintro v t ⟨⟩
    rfl
  | branch taken sel cond target =>
    refine ⟨_, _, _, rfl, by simp [Shape.operandFaults, Shape.edgeFaults], ?_, ?_⟩
    · rintro ⟨b, v, a, f⟩ t h
      cases f <;> cases h <;> rfl
    · rintro - ⟨b, v, a, f⟩ -
      cases f <;> exact ⟨_, rfl⟩
  | jump sel target =>
    refine ⟨_, _, _, rfl, by simp [Shape.operandFaults, Shape.edgeFaults], ?_, fun _ _ _ => ⟨_, rfl⟩⟩
    rintro v t ⟨⟩
    rfl
  | halt => exact absurd rfl hsh

theorem shape_ne_halt_of_faults {i : Instr} {s : State} (h : faultsOf i s ≠ []) : shape i ≠ .halt := by
  intro hi
  simp [faultsOf, hi, Shape.operandFaults, Shape.edgeFaults] at h

/-- An instruction to which a fault applies ends in a fault, under every `FAULT_PRIORITY`. -/
theorem exec_faults {i : Instr} {s : State} (h : faultsOf i s ≠ []) : Faults (exec i s) := by
  obtain ⟨α, c, k, hrun, hc, -⟩ := run_eq_commit i s (shape_ne_halt_of_faults h)
  rw [exec_eq_run, hrun]
  exact commit_faults (hc ▸ h)

/-- Under the default order the first fault that applies is the one taken (R91). -/
theorem exec_faultsWith_head {i : Instr} {s : State} {e : Cause} (ho : s.params.faultPriority = .order)
    (h : (faultsOf i s).head? = some e) : FaultsWith (exec i s) s (some (opcode s.params i)) e := by
  have hne : faultsOf i s ≠ [] := by rintro hn; simp [hn] at h
  obtain ⟨α, c, k, hrun, hc, -⟩ := run_eq_commit i s (shape_ne_halt_of_faults hne)
  rw [exec_eq_run, hrun]
  exact commit_faultsWith ho (hc ▸ h)

/-- A lone fault is the one taken, under every `FAULT_PRIORITY`. -/
theorem exec_faultsWith_single {i : Instr} {s : State} {e : Cause} (h : faultsOf i s = [e]) :
    FaultsWith (exec i s) s (some (opcode s.params i)) e := by
  obtain ⟨α, c, k, hrun, hc, -⟩ := run_eq_commit i s (shape_ne_halt_of_faults (h ▸ List.cons_ne_nil e []))
  rw [exec_eq_run, hrun]
  exact commit_faultsWith_single (hc.trans h)

theorem ok_of_causes_eq_nil {α : Type} {c : Checked α} (h : c.causes = []) : ∃ v, c = .ok v := by
  cases c with
  | ok v => exact ⟨v, rfl⟩
  | bad first rest => simp at h

/-- An instruction to which no fault applies keeps the status, or halts. -/
theorem status_of_no_faults {i : Instr} {s t : State} (hf : faultsOf i s = []) (h : exec i s = .next t) :
    t.status = if i.isHalt then .halted else s.status := by
  rw [exec_eq_run] at h
  by_cases hi : shape i = .halt
  · rw [if_pos ((isHalt_iff i).mpr hi)]
    rw [hi] at h
    cases h
    rfl
  · rw [if_neg (fun hh => hi ((isHalt_iff i).mp hh))]
    obtain ⟨α, c, k, hrun, hc, hk, -⟩ := run_eq_commit i s hi
    obtain ⟨v, rfl⟩ := ok_of_causes_eq_nil (hc.trans hf)
    rw [hrun, commit_ok] at h
    exact hk v t h

/-- Settles O10: a fault that applies is taken, and without one the writes go through. -/
theorem execNeverStops : Obligations.ExecNeverStops := by
  intro i s ha
  by_cases hf : faultsOf i s = []
  · rw [exec_eq_run]
    by_cases hi : shape i = .halt
    · exact ⟨_, by rw [hi]; rfl⟩
    · obtain ⟨α, c, k, hrun, hc, -, hk⟩ := run_eq_commit i s hi
      obtain ⟨v, rfl⟩ := ok_of_causes_eq_nil (hc.trans hf)
      rw [hrun, commit_ok]
      exact hk ha v rfl
  · obtain ⟨t, f, ht, -⟩ := exec_faults hf
    exact ⟨t, ht⟩

/-! ## The first fault (R91) -/

/-- A bad selector comes before every other fault. -/
theorem head_faultsOf_selector {i : Instr} {s : State} {d : Byte} (h : resolvedSelector i s = some d)
    (hd : NoBank s d) : (faultsOf i s).head? = some (.bankOutOfRange d) := by
  obtain ⟨o, ho, hv⟩ := resolvedSelector_eq_some.mp h
  have hb := bank_of_noBank hv hd
  cases hi : shape i <;> simp only [hi, Shape.selector, Option.some.injEq, reduceCtorEq] at ho
  all_goals
    subst ho
    simp [faultsOf, hi, Shape.operandFaults, hb]

theorem head_causes_bind {α β : Type} {c : Checked α} (k : α → Checked β) {e : Cause}
    (h : c.causes.head? = some e) : (c.bind k).causes.head? = some e := by
  cases c with
  | ok v => simp at h
  | bad first rest => exact h

/-- With a good selector the operands raise the faults of their registers, in operand order, and nothing else but an
overflow. -/
theorem operandFaults_of_good {s : State} {sh : Shape}
    (good : ∀ o, sh.selector = some o → ∀ d, o.value s = .ok d → ¬ NoBank s d)
    (hno : ∀ op a b, sh ≠ .alu op a b) : sh.operandFaults s = registerFaults sh.registers := by
  cases sh with
  | alu op a b => exact absurd rfl (hno op a b)
  | set | compare => simp only [Shape.operandFaults, Shape.registers, registerFaults_append, causes_value, causes_dest]
  | save sel _ _ | load sel _ _ | branch _ sel _ _ | jump sel _ =>
    simp only [Shape.operandFaults, Shape.registers, registerFaults_append, causes_bank_of_good (good sel rfl),
      causes_value, causes_dest]
  | halt => rfl

/-- With a good selector the first bad register operand comes before an overflow and the fall-through edge. -/
theorem head_faultsOf_register {i : Instr} {s : State} {r : Byte}
    (hsel : ∀ d, resolvedSelector i s = some d → ¬ NoBank s d) (h : i.registerOperands.find? (8 ≤ ·.toNat) = some r) :
    (faultsOf i s).head? = some (.registerOutOfRange r) := by
  have bad : (registerFaults (shape i).registers).head? = some (.registerOutOfRange r) := by
    rw [registerFaults, List.head?_map, List.head?_filter, ← registerOperands_eq, h, Option.map_some]
  suffices hop : ((shape i).operandFaults s).head? = some (.registerOutOfRange r) by
    rw [faultsOf, List.head?_append, hop, Option.some_or]
  by_cases ha : ∃ op a b, shape i = .alu op a b
  · obtain ⟨op, a, b, ha⟩ := ha
    rw [ha] at bad ⊢
    refine head_causes_bind _ ?_
    rwa [causes_both, causes_value, causes_value, ← registerFaults_append]
  · rwa [operandFaults_of_good (fun o ho d hv => hsel d (resolvedSelector_eq_some.mpr ⟨o, ho, hv⟩))
      (fun op a b he => ha ⟨op, a, b, he⟩)]

/-- Under the default order, a bad selector is the fault of the instruction. -/
theorem exec_faultsWith_selector {i : Instr} {s : State} {d : Byte} (ho : s.params.faultPriority = .order)
    (h : resolvedSelector i s = some d) (hd : NoBank s d) :
    FaultsWith (exec i s) s (some (opcode s.params i)) (.bankOutOfRange d) :=
  exec_faultsWith_head ho (head_faultsOf_selector h hd)

/-- Under the default order and with a good selector, the first bad register operand is the fault of the
instruction. -/
theorem exec_faultsWith_register {i : Instr} {s : State} {r : Byte} (ho : s.params.faultPriority = .order)
    (hsel : ∀ d, resolvedSelector i s = some d → ¬ NoBank s d) (h : i.registerOperands.find? (8 ≤ ·.toNat) = some r) :
    FaultsWith (exec i s) s (some (opcode s.params i)) (.registerOutOfRange r) :=
  exec_faultsWith_head ho (head_faultsOf_register hsel h)

theorem not_noBank_of_selectsBank {s : State} {d b : Byte} (h : SelectsBank s d b) : ¬ NoBank s d := by
  rcases h with ⟨rfl, -⟩ | ⟨-, h, -⟩
  · exact Nat.not_lt_zero _
  · exact Nat.not_lt.mpr h

theorem find_first {r : Byte} {rs : List Byte} (h : NoRegister r) : (r :: rs).find? (8 ≤ ·.toNat) = some r := by
  simp [h]

theorem find_second {r r2 : Byte} (h : r.toNat < 8) (h2 : NoRegister r2) :
    [r, r2].find? (8 ≤ ·.toNat) = some r2 := by
  simp [h, h2]

/-- A packed literal selector is always good (R46). -/
theorem good_literalSel {s : State} {sel : Sel} (d : Byte) (h : some (sel.setWidth 8) = some d) : ¬ NoBank s d := by
  cases h
  exact resolve_packed s sel

/-- A packed selector register is good where what it holds names a bank. -/
theorem good_heldSel {s : State} {sel : Sel} {d b : Byte} (hd : HoldsSel s sel d) (hb : SelectsBank s d b) (e : Byte)
    (h : some (readX s (selIndex sel)) = some e) : ¬ NoBank s e := by
  cases h
  rw [(holdsSel_iff s sel d).mp hd]
  exact not_noBank_of_selectsBank hb

theorem resolved_heldSel {s : State} {sel : Sel} {d : Byte} (hd : HoldsSel s sel d) :
    some (readX s (selIndex sel)) = some d := congrArg some ((holdsSel_iff s sel d).mp hd)

/-- Settles O37: in each mode the first fault is that of the selector, else of the first bad register operand. -/
theorem saveFaultsInOperandOrder : Obligations.SaveFaultsInOperandOrder := by
  intro s sel op1 op2 d b a ho
  exact ⟨fun h2 => exec_faultsWith_register ho good_literalSel (find_first h2),
    fun h1 => exec_faultsWith_register ho good_literalSel (find_first h1),
    fun h1 => exec_faultsWith_register ho good_literalSel (find_first h1),
    fun h1 h2 => exec_faultsWith_register ho good_literalSel (find_second (lt_of_holds h1) h2),
    fun hd hn => exec_faultsWith_selector ho (resolved_heldSel hd) hn,
    fun hd hn => exec_faultsWith_selector ho (resolved_heldSel hd) hn,
    fun hd hb h2 => exec_faultsWith_register ho (good_heldSel hd hb) (find_first h2),
    fun hd hn => exec_faultsWith_selector ho (resolved_heldSel hd) hn,
    fun hd hb h1 => exec_faultsWith_register ho (good_heldSel hd hb) (find_first h1),
    fun hd hn => exec_faultsWith_selector ho (resolved_heldSel hd) hn,
    fun hd hb h1 => exec_faultsWith_register ho (good_heldSel hd hb) (find_first h1),
    fun hd hb h1 h2 => exec_faultsWith_register ho (good_heldSel hd hb) (find_second (lt_of_holds h1) h2)⟩

/-- Settles O38: in each mode the first fault is that of the selector, else of the first bad register operand. -/
theorem loadFaultsInOperandOrder : Obligations.LoadFaultsInOperandOrder := by
  intro s sel op1 op2 d b a ho
  exact ⟨fun h2 => exec_faultsWith_register ho good_literalSel (find_first h2),
    fun h1 => exec_faultsWith_register ho good_literalSel (find_first h1),
    fun h1 h2 => exec_faultsWith_register ho good_literalSel (find_second (lt_of_holds h1) h2),
    fun hd hn => exec_faultsWith_selector ho (resolved_heldSel hd) hn,
    fun hd hb h2 => exec_faultsWith_register ho (good_heldSel hd hb) (find_first h2),
    fun hd hn => exec_faultsWith_selector ho (resolved_heldSel hd) hn,
    fun hd hb h1 => exec_faultsWith_register ho (good_heldSel hd hb) (find_first h1),
    fun hd hb h1 h2 => exec_faultsWith_register ho (good_heldSel hd hb) (find_second (lt_of_holds h1) h2)⟩

/-- Settles O39: whether the jump is taken is no part of the operand checks, so the order is that of SAVE and LOAD. -/
theorem branchesCheckEveryOperandTakenOrNot : Obligations.BranchesCheckEveryOperandTakenOrNot := by
  intro s sel op1 op2 d b a ho
  exact ⟨fun h1 => exec_faultsWith_register ho good_literalSel (find_first h1),
    fun h1 => exec_faultsWith_register ho good_literalSel (find_first h1),
    fun h1 h2 => exec_faultsWith_register ho good_literalSel (find_second (lt_of_holds h1) h2),
    fun hd hn => exec_faultsWith_selector ho (resolved_heldSel hd) hn,
    fun hd hb h1 => exec_faultsWith_register ho (good_heldSel hd hb) (find_first h1),
    fun hd hn => exec_faultsWith_selector ho (resolved_heldSel hd) hn,
    fun hd hb h1 => exec_faultsWith_register ho (good_heldSel hd hb) (find_first h1),
    fun hd hb h1 h2 => exec_faultsWith_register ho (good_heldSel hd hb) (find_second (lt_of_holds h1) h2),
    fun h1 => exec_faultsWith_register ho good_literalSel (find_first h1),
    fun h1 => exec_faultsWith_register ho good_literalSel (find_first h1),
    fun h1 h2 => exec_faultsWith_register ho good_literalSel (find_second (lt_of_holds h1) h2),
    fun hd hn => exec_faultsWith_selector ho (resolved_heldSel hd) hn,
    fun hd hb h1 => exec_faultsWith_register ho (good_heldSel hd hb) (find_first h1),
    fun hd hn => exec_faultsWith_selector ho (resolved_heldSel hd) hn,
    fun hd hb h1 => exec_faultsWith_register ho (good_heldSel hd hb) (find_first h1),
    fun hd hb h1 h2 => exec_faultsWith_register ho (good_heldSel hd hb) (find_second (lt_of_holds h1) h2)⟩

/-- Settles O40: a selector register that is bad resolves no selector, and the first fault is its own. -/
theorem jumpFaultsInOperandOrder : Obligations.JumpFaultsInOperandOrder := by
  intro s op1 op2 d b ho
  have good {c : Byte} (hb : SelectsBank s c b) (e : Byte) (h : some c = some e) : ¬ NoBank s e := by
    cases h
    exact not_noBank_of_selectsBank hb
  have unread (h1 : NoRegister op1) (e : Byte) (h : s.x[op1.toNat]? = some e) : ¬ NoBank s e :=
    absurd (lt_of_holds h) (Nat.not_lt.mpr h1)
  exact ⟨fun hn => exec_faultsWith_selector ho rfl hn,
    fun hn => exec_faultsWith_selector ho rfl hn,
    fun hb h2 => exec_faultsWith_register ho (good hb) (find_first h2),
    fun h1 => exec_faultsWith_register ho (unread h1) (find_first h1),
    fun h1 hn => exec_faultsWith_selector ho h1 hn,
    fun h1 => exec_faultsWith_register ho (unread h1) (find_first h1),
    fun h1 hn => exec_faultsWith_selector ho h1 hn,
    fun h1 hb h2 => exec_faultsWith_register ho (fun e h => good hb e (h1.symm.trans h))
      (find_second (lt_of_holds h1) h2)⟩

/-- Settles O41: no selector is resolved, so the first fault is that of the first bad register operand. -/
theorem flatRegisterOperandsFaultInOrder : Obligations.FlatRegisterOperandsFaultInOrder := by
  intro s op1 op2 ho
  have first {i : Instr} {r : Byte} {rs : List Byte} (hi : resolvedSelector i s = none)
      (hr : i.registerOperands = r :: rs) (h : NoRegister r) :
      FaultsWith (exec i s) s (some (opcode s.params i)) (.registerOutOfRange r) :=
    exec_faultsWith_register ho (by simp [hi]) (hr ▸ find_first h)
  have second {i : Instr} (hi : resolvedSelector i s = none) (hr : i.registerOperands = [op1, op2])
      (h1 : op1.toNat < 8) (h2 : NoRegister op2) :
      FaultsWith (exec i s) s (some (opcode s.params i)) (.registerOutOfRange op2) :=
    exec_faultsWith_register ho (by simp [hi]) (hr ▸ find_second h1 h2)
  exact ⟨first rfl rfl, first rfl rfl, second rfl rfl,
    -- ADD, SUB
    first rfl rfl, first rfl rfl, second rfl rfl, first rfl rfl, first rfl rfl, second rfl rfl,
    -- OR, XOR, NOR, AND
    first rfl rfl, first rfl rfl, second rfl rfl, first rfl rfl, first rfl rfl, second rfl rfl,
    first rfl rfl, first rfl rfl, second rfl rfl, first rfl rfl, first rfl rfl, second rfl rfl,
    -- the six comparisons
    first rfl rfl, first rfl rfl, second rfl rfl, first rfl rfl, first rfl rfl, second rfl rfl,
    first rfl rfl, first rfl rfl, second rfl rfl, first rfl rfl, first rfl rfl, second rfl rfl,
    first rfl rfl, first rfl rfl, second rfl rfl, first rfl rfl, first rfl rfl, second rfl rfl,
    -- SUB VR
    first rfl rfl⟩

end Sys2Proof.Machine
end

section
/-! SUPPORT. Whether an instruction faults, and what its fault record says: the obligations that rest on the list of the
faults that apply and on the inversion of exec. -/

namespace Sys2Proof.Machine

/-! ## Faults of the operands -/

theorem mem_causes_bind {α β : Type} {c : Checked α} {k : α → Checked β} {e : Cause} (h : e ∈ c.causes) :
    e ∈ (c.bind k).causes := by
  cases c with
  | ok v => simp at h
  | bad first rest => exact h

/-- An operand byte that names no register is among the faults that apply, whatever the other operands are. -/
theorem mem_operandFaults_register {s : State} {sh : Shape} {r : Byte} (hr : r ∈ sh.registers) (h : NoRegister r) :
    .registerOutOfRange r ∈ sh.operandFaults s := by
  have raised {rs : List Byte} (hm : r ∈ rs) : .registerOutOfRange r ∈ registerFaults rs :=
    List.mem_map_of_mem (List.mem_filter.mpr ⟨hm, decide_eq_true h⟩)
  have value {o : Operand} (hm : r ∈ o.registers) : .registerOutOfRange r ∈ (o.value s).causes :=
    causes_value s o ▸ raised hm
  have bank {o : Operand} (hm : r ∈ o.registers) : .registerOutOfRange r ∈ (o.bank s).causes :=
    mem_causes_bind (value hm)
  have dst {q : Byte} (hm : r ∈ [q]) : .registerOutOfRange r ∈ (dest q).causes := causes_dest q ▸ raised hm
  cases sh with
  | save => exact List.mem_append.mpr ((List.mem_append.mp hr).imp bank fun hr =>
      List.mem_append.mpr ((List.mem_append.mp hr).imp value value))
  | load => exact List.mem_append.mpr ((List.mem_append.mp hr).imp bank fun hr =>
      List.mem_append.mpr ((List.mem_append.mp hr).imp value dst))
  | set => exact List.mem_append.mpr ((List.mem_append.mp hr).imp dst value)
  | alu =>
    refine mem_causes_bind ?_
    rw [causes_both]
    exact List.mem_append.mpr ((List.mem_append.mp hr).imp value value)
  | compare => exact List.mem_append.mpr ((List.mem_append.mp hr).imp value value)
  | branch => exact List.mem_append.mpr ((List.mem_append.mp hr).imp bank fun hr =>
      List.mem_append.mpr ((List.mem_append.mp hr).imp value value))
  | jump => exact List.mem_append.mpr ((List.mem_append.mp hr).imp bank value)
  | halt => cases hr

/-- Settles O44: a bad register operand is one of the faults that apply. -/
theorem badRegisterOperandAlwaysFaults : Obligations.BadRegisterOperandAlwaysFaults := by
  refine ⟨fun i s ⟨r, hr, h⟩ => exec_faults ?_, fun s sel => ⟨_, readX_selIndex s sel⟩⟩
  rw [registerOperands_eq] at hr
  exact List.ne_nil_of_mem (List.mem_append_left _ (mem_operandFaults_register hr h))

/-- Settles O58: a selector above the maximum is the first of the faults that apply. -/
theorem heldSelectorsBeyondTheMaximumFault : Obligations.HeldSelectorsBeyondTheMaximumFault := by
  intro s sel op1 op2 d hn
  have faults {i : Instr} (h : resolvedSelector i s = some d) : Faults (exec i s) :=
    exec_faults fun he => by simpa [he] using head_faultsOf_selector h hn
  refine ⟨fun hd => ?_, faults rfl, faults rfl, fun hd => ⟨faults hd, faults hd⟩⟩
  have held := resolved_heldSel hd
  exact ⟨faults held, faults held, faults held, faults held, faults held, faults held, faults held, faults held,
    faults held, faults held⟩

/-- Settles O46: the two values of FAULT_PRIORITY, and a list of one fault. -/
theorem reportedFaultIsOneThatApplies : Obligations.ReportedFaultIsOneThatApplies :=
  fun s op0 first rest => ⟨reported_order s op0 first rest, reported_mem s op0 first rest, reported_single s op0 first⟩

/-! ## The conditions of JZ and JNZ (R142) -/

theorem takenIfZero_of_eq {c : Byte} (h : c = 0) : takenIfZero c = true := decide_eq_true h
theorem takenIfZero_of_ne {c : Byte} (h : c ≠ 0) : takenIfZero c = false := decide_eq_false h
theorem takenIfNonZero_of_ne {c : Byte} (h : c ≠ 0) : takenIfNonZero c = true := decide_eq_true h
theorem takenIfNonZero_of_eq {c : Byte} (h : c = 0) : takenIfNonZero c = false := decide_eq_false (not_not.mpr h)

/-! ## The fall-through edge -/

/-- Where the operands are good, the fall-through past the bank is the one fault of a branch that is not taken. -/
theorem branch_edge_faults {i : Instr} {s : State} {taken : Byte → Bool} {sel cond target : Operand} {b c t : Byte}
    (hi : shape i = .branch taken sel cond target) (hoff : FallsOff s) (hb : sel.bank s = .ok b)
    (hc : cond.value s = .ok c) (ht : target.value s = .ok t) (hn : taken c = false) :
    FaultsWith (exec i s) s (some (opcode s.params i)) (.pcOutOfBank s.pc) := by
  refine exec_faultsWith_single ?_
  simp [faultsOf, hi, Shape.operandFaults, Shape.edgeFaults, hb, hc, ht, untaken, hn, causes_map, fallThrough_bad s hoff]

/-- Settles O33: in each form the operands raise nothing, and the edge is left. -/
theorem untakenBranchAtTheEdgeFaults : Obligations.UntakenBranchAtTheEdgeFaults := by
  intro s sel op1 op2 d b c t hoff
  have lit (h : SelectsBank s (sel.setWidth 8) b) : (Operand.lit (sel.setWidth 8)).bank s = .ok b :=
    (bank_ok_iff s _ b).mpr ⟨_, rfl, h⟩
  have held (hd : HoldsSel s sel d) (h : SelectsBank s d b) : (Operand.held sel).bank s = .ok b :=
    (bank_ok_iff s _ b).mpr ⟨d, congrArg Checked.ok ((holdsSel_iff s sel d).mp hd), h⟩
  exact ⟨fun hb hc hz => branch_edge_faults rfl hoff (lit hb) (value_reg_of_holds hc) rfl (takenIfZero_of_ne hz),
    fun hb hc ht hz => branch_edge_faults rfl hoff (lit hb) (value_reg_of_holds hc)
      (value_reg_of_holds ht) (takenIfZero_of_ne hz),
    fun hd hb hc hz => branch_edge_faults rfl hoff (held hd hb) (value_reg_of_holds hc) rfl (takenIfZero_of_ne hz),
    fun hd hb hc ht hz => branch_edge_faults rfl hoff (held hd hb) (value_reg_of_holds hc)
      (value_reg_of_holds ht) (takenIfZero_of_ne hz),
    fun hb hc hz => branch_edge_faults rfl hoff (lit hb) (value_reg_of_holds hc) rfl (takenIfNonZero_of_eq hz),
    fun hb hc ht hz => branch_edge_faults rfl hoff (lit hb) (value_reg_of_holds hc)
      (value_reg_of_holds ht) (takenIfNonZero_of_eq hz),
    fun hd hb hc hz => branch_edge_faults rfl hoff (held hd hb) (value_reg_of_holds hc) rfl (takenIfNonZero_of_eq hz),
    fun hd hb hc ht hz => branch_edge_faults rfl hoff (held hd hb) (value_reg_of_holds hc)
      (value_reg_of_holds ht) (takenIfNonZero_of_eq hz)⟩

/-- The operand checks do not look at `pc`. -/
theorem operandFaults_setPc (s : State) (n : Byte) (sh : Shape) : sh.operandFaults (setPc s n) = sh.operandFaults s := by
  cases sh <;> rfl

theorem edgeFaults_of_fallsOff {i : Instr} {s : State} (hh : i.isHalt = false) (hj : i.isJump = false)
    (hoff : FallsOff s) : (shape i).edgeFaults s = [.pcOutOfBank s.pc] := by
  have hf : (fallThrough s).causes = [.pcOutOfBank s.pc] := by rw [fallThrough_bad s hoff, causes_bad]
  rw [isJump_eq] at hj
  cases hi : shape i with
  | save | load | set | alu | compare => exact hf
  | branch | jump => rw [hi] at hj; cases hj
  | halt => rw [(isHalt_iff i).mpr hi] at hh; cases hh

/-- A fault does not apply to an instruction that answers a state no fault has ended. -/
theorem faultsOf_of_safe {i : Instr} {s t : State} (h : exec i s = .next t) (ht : t.Safe = true) : faultsOf i s = [] := by
  by_contra hf
  obtain ⟨u, f, hu, hs⟩ := exec_faults hf
  rw [h] at hu
  cases hu
  simp [State.Safe, hs, Status.isFaulted] at ht

/-- Settles O42: the edge is one of the faults that apply, and the only one where the operands raise none at pc 0. -/
theorem fallThroughPastTheBankFaults : Obligations.FallThroughPastTheBankFaults := by
  intro i s hh hj hoff _ _
  have he := edgeFaults_of_fallsOff hh hj hoff
  refine ⟨exec_faults (by simp [faultsOf, he]), ?_⟩
  rintro ⟨t, ht, hr⟩
  have h0 := faultsOf_of_safe (s := setPc s 0) ht (by simp [State.Safe, hr, Status.isFaulted])
  have hop := (List.append_eq_nil_iff.mp h0).1
  rw [operandFaults_setPc] at hop
  exact exec_faultsWith_single (by rw [faultsOf, hop, he, List.nil_append])

/-! ## Overflow (R113) -/

/-- An overflow is the fault taken where FAULT_PRIORITY is order or the fall-through has a place to go. -/
theorem overflow_faults {i : Instr} {s : State} {op : AluOp} {a b : Operand} {u v : Byte}
    (hp : s.params.faultPriority = .order ∨ ∃ n, FallsTo s n) (hi : shape i = .alu op a b) (ha : a.value s = .ok u)
    (hb : b.value s = .ok v) (ho : alu op u v = .bad (.arithmeticOverflow op u v) []) :
    FaultsWith (exec i s) s (some (opcode s.params i)) (.arithmeticOverflow op u v) := by
  have hf : faultsOf i s = .arithmeticOverflow op u v :: (fallThrough s).causes := by
    simp [faultsOf, hi, Shape.operandFaults, Shape.edgeFaults, ha, hb, ho]
  rcases hp with hp | ⟨n, hn⟩
  · exact exec_faultsWith_head hp (by rw [hf, List.head?_cons])
  · exact exec_faultsWith_single (by rw [hf, (fallThrough_ok_iff s n).mpr hn, causes_ok])

theorem alu_add_overflow {a b : Byte} (h : 255 < a.toNat + b.toNat) :
    alu .add a b = .bad (.arithmeticOverflow .add a b) [] := if_pos h

theorem alu_sub_overflow {a b : Byte} (h : a.toNat < b.toNat) :
    alu .sub a b = .bad (.arithmeticOverflow .sub a b) [] := if_pos h

/-- Settles O36: in each form the operands are readable and the alu raises the overflow. -/
theorem overflowFaultsInsteadOfWrapping : Obligations.OverflowFaultsInsteadOfWrapping := by
  intro s op1 op2 a b hp
  exact ⟨fun h1 h => overflow_faults hp rfl (value_reg_of_holds h1) rfl (alu_add_overflow h),
    fun h1 h2 h => overflow_faults hp rfl (value_reg_of_holds h1) (value_reg_of_holds h2) (alu_add_overflow h),
    fun h1 h => overflow_faults hp rfl (value_reg_of_holds h1) rfl (alu_sub_overflow h),
    fun h1 h2 h => overflow_faults hp rfl (value_reg_of_holds h1) (value_reg_of_holds h2) (alu_sub_overflow h),
    fun h2 h => overflow_faults hp rfl rfl (value_reg_of_holds h2) (alu_sub_overflow h)⟩

/-! ## The record -/

/-- An effect keeps the status or halts. -/
theorem Effect.safe {i : Instr} {s t : State} (h : Effect i s t) (hs : s.Safe = true) : t.Safe = true := by
  cases h with
  | store _ _ _ _ _ _ _ result | write _ _ _ _ _ _ _ result | jump _ _ _ _ _ result | fall _ _ _ result =>
    rw [result]; exact hs
  | halt _ result => rw [result]; rfl

theorem safe_of_running {s : State} (h : s.status = .running) : s.Safe = true := by
  simp [State.Safe, h, Status.isFaulted]

/-- An instruction begun in a running state ends in a fault only by taking one that fits. -/
theorem faultOf_of_faulted {i : Instr} {s t : State} {f : FaultRecord} (hs : s.status = .running)
    (h : exec i s = .next t) (ht : t.status = .faulted f) :
    ∃ c, fits i s c ∧ f = { cause := c, pc := s.pc, active := s.active, op0 := some (opcode s.params i) } := by
  rcases exec_cases h with he | ⟨c, hc, rfl⟩
  · have := he.safe (safe_of_running hs)
    simp [State.Safe, ht, Status.isFaulted] at this
  · exact ⟨c, hc, (Status.faulted.inj ht).symm⟩

/-- Settles O43: the record that taking a fault writes, and the cause by its kind. -/
theorem faultRecordsNameTheFaultingStep : Obligations.FaultRecordsNameTheFaultingStep := by
  intro i s t f hs h ht
  obtain ⟨c, hc, rfl⟩ := faultOf_of_faulted hs h ht
  refine ⟨rfl, rfl, rfl, ?_⟩
  cases c with
  | registerOutOfRange r => exact .inl ⟨r, hc.1, hc.2, rfl⟩
  | bankOutOfRange d => exact .inr (.inl ⟨d, hc.1, hc.2, rfl⟩)
  | arithmeticOverflow op a b =>
    cases op with
    | add => exact .inr (.inr (.inl ⟨a, b, hc.1, hc.2, rfl⟩))
    | sub => exact .inr (.inr (.inr (.inl ⟨a, b, hc.1, hc.2, rfl⟩)))
    | or | xor | nor | and => exact hc.elim
  | malformedCount | malformedBank => exact hc.elim
  | pcOutOfBank q =>
    obtain ⟨rfl, ⟨hedge, hpc⟩, hfall⟩ := hc
    exact .inr (.inr (.inr (.inr ⟨hfall, hedge, hpc, rfl⟩)))

theorem lt_of_wellFormed {i : Instr} {r : Byte} (h : i.WellFormed = true) (hr : r ∈ i.registerOperands) :
    r.toNat < 8 := by
  simp only [Instr.WellFormed, Bool.and_eq_true, Instr.registersInRange, List.all_eq_true, decide_eq_true_eq] at h
  exact h.1 r hr

/-- A literal selector that passes the assembler's check names a bank (R45, R77). -/
theorem exists_selectsBank_of_wellFormed {i : Instr} {s : State} {d : Byte} (h : i.WellFormed = true)
    (hd : d ∈ i.selectorOperands) : ∃ b, SelectsBank s d b := by
  simp only [Instr.WellFormed, Bool.and_eq_true, Instr.selectorsInRange, List.all_eq_true, decide_eq_true_eq] at h
  have hlt := h.2 d hd
  have hm : 7 ≤ s.params.selectorMax.toNat := by cases s.params.selectorMax <;> decide
  exact exists_selectsBank (by simp only [NoBank]; omega)

/-- Settles O45: a fault that names a register names a bad one, and JMP DV and DR have good operands. -/
theorem wellFormedInstructionsNeverNameABadRegister : Obligations.WellFormedInstructionsNeverNameABadRegister := by
  refine ⟨fun i s t f hw hs h ht r hf => ?_, fun i s hw hne => ?_⟩
  · obtain ⟨c, hc, rfl⟩ := faultOf_of_faulted hs h ht
    obtain rfl : c = .registerOutOfRange r := hf
    exact absurd (lt_of_wellFormed hw hc.1) (Nat.not_lt.mpr hc.2)
  · cases i with
    | jmpDv d t =>
      obtain ⟨b, hb⟩ := exists_selectsBank_of_wellFormed (s := s) hw (List.mem_singleton.mpr rfl)
      exact ⟨_, jumpWith_ok ((bankOfLiteral_ok_iff s d b).mpr hb) rfl, rfl⟩
    | jmpDr d t =>
      obtain ⟨b, hb⟩ := exists_selectsBank_of_wellFormed (s := s) hw (List.mem_singleton.mpr rfl)
      have ht := lt_of_wellFormed hw (List.mem_singleton.mpr rfl)
      exact ⟨_, jumpWith_ok ((bankOfLiteral_ok_iff s d b).mpr hb) (reg_of_lt s t ht), rfl⟩
    | _ => exact absurd rfl hne

/-! ## FAULT_PRIORITY -/

/-- `s` under another value of `FAULT_PRIORITY`. -/
def withPriority (q : FaultPriority) (s : State) : State := { s with params := { s.params with faultPriority := q } }

theorem faultsOf_withPriority (i : Instr) (s : State) (q : FaultPriority) : faultsOf i (withPriority q s) = faultsOf i s := by
  unfold faultsOf
  cases shape i <;> rfl

/-- Where no fault ends an instruction its checks gave a value. -/
theorem commit_next_of_safe {α : Type} {i : Instr} {s t : State} {c : Checked α} {k : α → StepOutcome}
    (h : commit i s c k = .next t) (ht : t.Safe = true) : ∃ v, c = .ok v ∧ k v = .next t := by
  cases c with
  | ok v => exact ⟨v, rfl, h⟩
  | bad first rest =>
    cases h
    cases ht

/-- An instruction whose checks pass does the same from a state that `g` has changed, if its writes do. -/
theorem commit_transfer {α : Type} {i : Instr} {s s' t : State} {c : Checked α} {k k' : α → StepOutcome}
    (g : State → State) (h : commit i s c k = .next t) (ht : t.Safe = true)
    (hk : ∀ v u, k v = .next u → k' v = .next (g u)) : commit i s' c k' = .next (g t) := by
  obtain ⟨v, rfl, hv⟩ := commit_next_of_safe h ht
  exact hk v t hv

/-- A step that raises no fault does not see `FAULT_PRIORITY`. -/
theorem exec_withPriority {i : Instr} {s t : State} (q : FaultPriority) (h : exec i s = .next t) (ht : t.Safe = true) :
    exec i (withPriority q s) = .next (withPriority q t) := by
  rw [exec_eq_run] at h ⊢
  cases hi : shape i <;> rw [hi] at h
  case save sel index value =>
    refine commit_transfer (withPriority q) h ht ?_
    rintro ⟨b, a, v, n⟩ u hu
    simp only at hu ⊢
    split at hu <;> cases hu
    simp only [if_true, *]
    rfl
  case load sel index dst =>
    refine commit_transfer (withPriority q) h ht ?_
    rintro ⟨b, a, r, n⟩ u hu
    simp only at hu ⊢
    split at hu <;> cases hu
    simp only [if_true, *]
    rfl
  case branch taken sel cond target =>
    refine commit_transfer (withPriority q) h ht ?_
    rintro ⟨b, v, a, f⟩ u hu
    cases f <;> cases hu <;> rfl
  case halt =>
    cases h
    rfl
  all_goals
    refine commit_transfer (withPriority q) h ht ?_
    rintro v u ⟨⟩
    rfl

/-- Settles O47: the faults that apply are the same under both values, and without one the step is the same. -/
theorem faultPriorityNeverDecidesWhetherAStepFaults : Obligations.FaultPriorityNeverDecidesWhetherAStepFaults := by
  intro i s t q hs h
  refine ⟨fun ht => exec_withPriority q h ht, fun ht => exec_faults (s := withPriority q s) fun hf => ?_⟩
  rw [faultsOf_withPriority] at hf
  have hst := status_of_no_faults hf h
  rw [hs] at hst
  split at hst <;> simp [State.Safe, hst, Status.isFaulted] at ht

end Sys2Proof.Machine
end

section
/-! SUPPORT. What each instruction does where its operands are good, in full (spec/41_save_load.md to 44_control.md), and the
obligations about it. -/

namespace Sys2Proof.Machine

/-! ## Operands that are good -/

theorem literalSel_ok {s : State} {sel : Sel} {b : Byte} (h : SelectsBank s (sel.setWidth 8) b) :
    bankOfLiteralSel s sel = .ok b := (bankOfLiteralSel_ok_iff s sel b).mpr h

theorem heldSel_ok {s : State} {sel : Sel} {d b : Byte} (hd : HoldsSel s sel d) (h : SelectsBank s d b) :
    bankOfHeldSel s sel = .ok b := (bankOfHeldSel_ok_iff s sel b).mpr ⟨d, hd, h⟩

theorem literalByte_ok {s : State} {d b : Byte} (h : SelectsBank s d b) : bankOfLiteral s d = .ok b :=
  (bankOfLiteral_ok_iff s d b).mpr h

theorem heldByte_ok {s : State} {rd d b : Byte} (hd : Holds s rd d) (h : SelectsBank s d b) :
    bankOfHeld s rd = .ok b := (bankOfHeld_ok_iff s rd b).mpr ⟨d, hd, h⟩

theorem source_of_holds {s : State} {r v : Byte} (h : Holds s r v) : source s r = .ok v := (source_ok_iff s r v).mpr h

theorem dest_of_eq {r : Byte} {j : Fin 8} (h : r.toNat = j) : dest r = .ok j := (dest_ok_iff r j).mpr h

/-! ## SAVE, LOAD, SET -/

/-- Settles O24: the shared SAVE with the operands of each mode. -/
theorem saveStoresOneByte : Obligations.SaveStoresOneByte := by
  intro s sel op1 op2 d b a v n hb hn
  exact ⟨fun h => saveWith_ok (literalSel_ok h) rfl rfl hn hb,
    fun h hv => saveWith_ok (literalSel_ok h) rfl (source_of_holds hv) hn hb,
    fun h ha => saveWith_ok (literalSel_ok h) (source_of_holds ha) rfl hn hb,
    fun h ha hv => saveWith_ok (literalSel_ok h) (source_of_holds ha) (source_of_holds hv) hn hb,
    fun hd h => saveWith_ok (heldSel_ok hd h) rfl rfl hn hb,
    fun hd h hv => saveWith_ok (heldSel_ok hd h) rfl (source_of_holds hv) hn hb,
    fun hd h ha => saveWith_ok (heldSel_ok hd h) (source_of_holds ha) rfl hn hb,
    fun hd h ha hv => saveWith_ok (heldSel_ok hd h) (source_of_holds ha) (source_of_holds hv) hn hb⟩

/-- Settles O26: the shared LOAD with the operands of each mode. -/
theorem loadMovesTheByteIntoTheRegister : Obligations.LoadMovesTheByteIntoTheRegister := by
  intro s sel op1 op2 d b a n r hb hr hn
  exact ⟨fun h => loadWith_ok (literalSel_ok h) rfl (dest_of_eq hr) hn hb,
    fun h ha => loadWith_ok (literalSel_ok h) (source_of_holds ha) (dest_of_eq hr) hn hb,
    fun hd h => loadWith_ok (heldSel_ok hd h) rfl (dest_of_eq hr) hn hb,
    fun hd h ha => loadWith_ok (heldSel_ok hd h) (source_of_holds ha) (dest_of_eq hr) hn hb⟩

/-- Settles O27: the shared SET with a literal and with a register. -/
theorem setWritesTheNamedRegister : Obligations.SetWritesTheNamedRegister := by
  intro s op1 op2 v n r hr hn
  exact ⟨setWith_ok (dest_of_eq hr) rfl hn, fun hv => setWith_ok (dest_of_eq hr) (source_of_holds hv) hn⟩

/-! ## The alu and the comparisons -/

/-- ADD of a sum that fits a byte (R113). -/
theorem alu_add {a b c : Byte} (h : c.toNat = a.toNat + b.toNat) : alu .add a b = .ok c := by
  have := c.isLt
  rw [alu, if_neg (by omega), ← h, BitVec.ofNat_toNat, BitVec.setWidth_eq]

/-- SUB of a difference that is not negative (R113). -/
theorem alu_sub {a b c : Byte} (h : a.toNat = c.toNat + b.toNat) : alu .sub a b = .ok c := by
  rw [alu, if_neg (by omega), h, Nat.add_sub_cancel, BitVec.ofNat_toNat, BitVec.setWidth_eq]

/-- Two bytes with the same eight bits are equal. -/
theorem byte_ext {r v : Byte} (h : ∀ k : Fin 8, r[k] = v[k]) : v = r :=
  BitVec.eq_of_getElem_eq fun k hk => (h ⟨k, hk⟩).symm

/-- Settles O22: the two checked operations by their range checks, the four others bit by bit. -/
theorem aluComputesExactlyOrFaults : Obligations.AluComputesExactlyOrFaults := by
  intro a b r
  refine ⟨alu_add, alu_add_overflow, alu_sub, alu_sub_overflow, fun h => ?_, fun h => ?_, fun h => ?_, fun h => ?_⟩ <;>
    exact congrArg Checked.ok (byte_ext fun k => by simp [h k])

/-- The result of each relation (R129). -/
theorem cmpResult_eq (a b : Byte) :
    cmpResult .grt a b = (if b.toNat < a.toNat then 1 else 0)
      ∧ cmpResult .lst a b = (if a.toNat < b.toNat then 1 else 0)
      ∧ cmpResult .greqt a b = (if b.toNat ≤ a.toNat then 1 else 0)
      ∧ cmpResult .lseqt a b = (if a.toNat ≤ b.toNat then 1 else 0)
      ∧ cmpResult .eql a b = (if a = b then 1 else 0) ∧ cmpResult .neql a b = (if a ≠ b then 1 else 0) := by
  simp only [cmpResult, relates, decide_eq_true_eq, gt_iff_lt, ge_iff_le, and_self]

/-- Settles O23: equal bytes are bytes with equal unsigned values. -/
theorem compareIsOneOrZeroUnsigned : Obligations.CompareIsOneOrZeroUnsigned := by
  intro a b
  obtain ⟨grt, lst, greqt, lseqt, eql, neql⟩ := cmpResult_eq a b
  refine ⟨grt, lst, greqt, lseqt, ?_, ?_⟩
  · rw [eql]; simp only [BitVec.toNat_inj]
  · rw [neql, ite_not]; simp only [BitVec.toNat_inj]

/-- Settles O28: the shared alu instruction, with a result that fits. -/
theorem addAndSubAreExact : Obligations.AddAndSubAreExact := by
  intro s op1 op2 a b c n hn
  exact ⟨fun h1 h => aluWith_ok (source_of_holds h1) rfl (alu_add h) hn,
    fun h1 h2 h => aluWith_ok (source_of_holds h1) (source_of_holds h2) (alu_add h) hn,
    fun h1 h => aluWith_ok (source_of_holds h1) rfl (alu_sub h) hn,
    fun h1 h2 h => aluWith_ok (source_of_holds h1) (source_of_holds h2) (alu_sub h) hn,
    fun h2 h => aluWith_ok rfl (source_of_holds h2) (alu_sub h) hn⟩

/-- Settles O29: the shared alu instruction, with an operation that raises nothing. -/
theorem logicOperationsWriteRegisterZero : Obligations.LogicOperationsWriteRegisterZero := by
  intro s op1 op2 a b n hn
  have rv {i : Instr} {op : AluOp} {r : Byte} (ho : alu op a op2 = .ok r) (h1 : Holds s op1 a) :
      aluWith i s op (source s op1) (literal op2) = .next (setPc (writeX s 0 r) n) :=
    aluWith_ok (source_of_holds h1) rfl ho hn
  have rr {i : Instr} {op : AluOp} {r : Byte} (ho : alu op a b = .ok r) (h1 : Holds s op1 a) (h2 : Holds s op2 b) :
      aluWith i s op (source s op1) (source s op2) = .next (setPc (writeX s 0 r) n) :=
    aluWith_ok (source_of_holds h1) (source_of_holds h2) ho hn
  exact ⟨rv rfl, rr rfl, rv rfl, rr rfl, rv rfl, rr rfl, rv rfl, rr rfl⟩

/-- Settles O30: the shared comparison, with its relation. -/
theorem comparisonsWriteOneOrZero : Obligations.ComparisonsWriteOneOrZero := by
  intro s op1 op2 a b n hn
  have rv {i : Instr} {rel : CmpRel} {r : Byte} (hr : cmpResult rel a op2 = r) (h1 : Holds s op1 a) :
      compareWith i s rel (source s op1) (literal op2) = .next (setPc (writeX s 0 r) n) :=
    hr ▸ compareWith_ok (source_of_holds h1) rfl hn
  have rr {i : Instr} {rel : CmpRel} {r : Byte} (hr : cmpResult rel a b = r) (h1 : Holds s op1 a) (h2 : Holds s op2 b) :
      compareWith i s rel (source s op1) (source s op2) = .next (setPc (writeX s 0 r) n) :=
    hr ▸ compareWith_ok (source_of_holds h1) (source_of_holds h2) hn
  obtain ⟨grt, lst, greqt, lseqt, eql, neql⟩ := cmpResult_eq a op2
  obtain ⟨grt', lst', greqt', lseqt', eql', neql'⟩ := cmpResult_eq a b
  exact ⟨rv grt, rr grt', rv lst, rr lst', rv greqt, rr greqt', rv lseqt, rr lseqt', rv eql, rr eql', rv neql, rr neql'⟩

/-! ## JZ, JNZ, JMP, END -/

/-- Settles O31: the shared branch, taken. -/
theorem takenBranchesSetActiveAndPc : Obligations.TakenBranchesSetActiveAndPc := by
  intro s sel op1 op2 d b c t
  exact ⟨fun h hc hz => branchWith_taken (literalSel_ok h) (source_of_holds hc) rfl (takenIfZero_of_eq hz),
    fun h hc ht hz => branchWith_taken (literalSel_ok h) (source_of_holds hc)
      (source_of_holds ht) (takenIfZero_of_eq hz),
    fun hd h hc hz => branchWith_taken (heldSel_ok hd h) (source_of_holds hc) rfl (takenIfZero_of_eq hz),
    fun hd h hc ht hz => branchWith_taken (heldSel_ok hd h) (source_of_holds hc)
      (source_of_holds ht) (takenIfZero_of_eq hz),
    fun h hc hz => branchWith_taken (literalSel_ok h) (source_of_holds hc) rfl (takenIfNonZero_of_ne hz),
    fun h hc ht hz => branchWith_taken (literalSel_ok h) (source_of_holds hc)
      (source_of_holds ht) (takenIfNonZero_of_ne hz),
    fun hd h hc hz => branchWith_taken (heldSel_ok hd h) (source_of_holds hc) rfl (takenIfNonZero_of_ne hz),
    fun hd h hc ht hz => branchWith_taken (heldSel_ok hd h) (source_of_holds hc)
      (source_of_holds ht) (takenIfNonZero_of_ne hz)⟩

/-- Settles O32: the shared branch, not taken. -/
theorem untakenBranchesFallThrough : Obligations.UntakenBranchesFallThrough := by
  intro s sel op1 op2 d b c t n hn
  exact ⟨fun h hc hz => branchWith_untaken (literalSel_ok h) (source_of_holds hc) rfl (takenIfZero_of_ne hz) hn,
    fun h hc ht hz => branchWith_untaken (literalSel_ok h) (source_of_holds hc)
      (source_of_holds ht) (takenIfZero_of_ne hz) hn,
    fun hd h hc hz => branchWith_untaken (heldSel_ok hd h) (source_of_holds hc) rfl (takenIfZero_of_ne hz) hn,
    fun hd h hc ht hz => branchWith_untaken (heldSel_ok hd h) (source_of_holds hc)
      (source_of_holds ht) (takenIfZero_of_ne hz) hn,
    fun h hc hz => branchWith_untaken (literalSel_ok h) (source_of_holds hc) rfl (takenIfNonZero_of_eq hz) hn,
    fun h hc ht hz => branchWith_untaken (literalSel_ok h) (source_of_holds hc)
      (source_of_holds ht) (takenIfNonZero_of_eq hz) hn,
    fun hd h hc hz => branchWith_untaken (heldSel_ok hd h) (source_of_holds hc) rfl (takenIfNonZero_of_eq hz) hn,
    fun hd h hc ht hz => branchWith_untaken (heldSel_ok hd h) (source_of_holds hc)
      (source_of_holds ht) (takenIfNonZero_of_eq hz) hn⟩

/-- Settles O34: the shared jump with the operands of each mode. -/
theorem jumpsSetActiveAndPc : Obligations.JumpsSetActiveAndPc := by
  intro s op1 op2 d b t
  exact ⟨fun h => jumpWith_ok (literalByte_ok h) rfl,
    fun h ht => jumpWith_ok (literalByte_ok h) (source_of_holds ht),
    fun hd h => jumpWith_ok (heldByte_ok hd h) rfl,
    fun hd h ht => jumpWith_ok (heldByte_ok hd h) (source_of_holds ht)⟩

/-- Settles O35: each of the eight halts, which is a success. -/
theorem endAndUnassignedOpcodesHalt : Obligations.EndAndUnassignedOpcodesHalt := by
  intro s op1 op2 u1 u2 u3 u4 u5
  have halts {i : Instr} (hi : shape i = .halt) : exec i s = .next (setStatus s .halted) := by
    rw [exec_eq_run, hi]
    rfl
  exact ⟨halts rfl, halts rfl, halts rfl, halts rfl, halts rfl, halts rfl, halts rfl, halts rfl, rfl⟩

/-! ## R0 (R24) -/

/-- Everything an arithmetic or logic instruction that raises no fault does. -/
theorem exec_alu_next {i : Instr} {s t : State} {op : AluOp} {a b : Operand} (hi : shape i = .alu op a b)
    (ht : t.Safe = true) (h : exec i s = .next t) :
    ∃ u v r n, AluOperands i s op u v ∧ alu op u v = .ok r ∧ t = setPc (writeX s 0 r) n := by
  rw [exec_eq_run, hi] at h
  obtain ⟨⟨r, n⟩, hc, hk⟩ := commit_next_of_safe h ht
  simp only [both_ok_iff, bind_ok_iff] at hc
  obtain ⟨⟨⟨u, v⟩, ⟨hu, hv⟩, hr⟩, -⟩ := hc
  exact ⟨u, v, r, n, aluOperands_of_shape hi hu hv, hr, (Host.Outcome.next.inj hk).symm⟩

/-- Everything a comparison that raises no fault does. -/
theorem exec_compare_next {i : Instr} {s t : State} {rel : CmpRel} {a b : Operand} (hi : shape i = .compare rel a b)
    (ht : t.Safe = true) (h : exec i s = .next t) :
    ∃ u v n, CmpOperands i s rel u v ∧ t = setPc (writeX s 0 (cmpResult rel u v)) n := by
  rw [exec_eq_run, hi] at h
  obtain ⟨⟨⟨u, v⟩, n⟩, hc, hk⟩ := commit_next_of_safe h ht
  simp only [both_ok_iff] at hc
  obtain ⟨⟨hu, hv⟩, -⟩ := hc
  exact ⟨u, v, n, cmpOperands_of_shape hi hu hv, (Host.Outcome.next.inj hk).symm⟩

theorem shape_aluInstr (f : AluForm) (op1 op2 : Byte) : ∃ op a b, shape (aluInstr f op1 op2) = .alu op a b := by
  cases f <;> exact ⟨_, _, _, rfl⟩

theorem shape_cmpInstr (g : CmpForm) (op1 op2 : Byte) : ∃ rel a b, shape (cmpInstr g op1 op2) = .compare rel a b := by
  cases g <;> exact ⟨_, _, _, rfl⟩

theorem readX_result_other (s : State) (r n : Byte) {j : Fin 8} (hj : j ≠ 0) :
    readX (setPc (writeX s 0 r) n) j = readX s j := readX_writeX_other s 0 j r hj.symm

theorem readX_result_zero (s : State) (r n : Byte) : readX (setPc (writeX s 0 r) n) 0 = r := readX_writeX_same s 0 r

/-- Settles O50: the result goes to R0 in the alu and compare shapes, and R0 is one of the registers that SET, LOAD,
an operand byte and a packed selector name. -/
theorem aluAndCompareWriteOnlyRegisterZero : Obligations.AluAndCompareWriteOnlyRegisterZero := by
  refine ⟨fun s t f op1 op2 ht h => ?_, fun s t g op1 op2 ht h => ?_, fun s sel op1 v b d a n hn hb => ?_⟩
  · obtain ⟨op, x, y, hi⟩ := shape_aluInstr f op1 op2
    obtain ⟨u, w, r, n, ho, hr, rfl⟩ := exec_alu_next hi ht h
    exact ⟨⟨op, u, w, ho, by rw [hr, readX_result_zero]⟩, fun j hj => readX_result_other s r n hj, rfl, rfl, rfl⟩
  · obtain ⟨rel, x, y, hi⟩ := shape_cmpInstr g op1 op2
    obtain ⟨u, w, n, ho, rfl⟩ := exec_compare_next hi ht h
    exact ⟨⟨rel, u, w, ho, readX_result_zero s _ n⟩, fun j hj => readX_result_other s _ n hj, rfl, rfl, rfl⟩
  · obtain ⟨dvr, drr, rvr, rrr⟩ := loadMovesTheByteIntoTheRegister s sel op1 0 d b a n 0 hb rfl hn
    exact ⟨(setWritesTheNamedRegister s 0 v v n 0 rfl hn).1, (setWritesTheNamedRegister s 0 op1 v n 0 rfl hn).2, dvr, drr,
      rvr, rrr, rfl, rfl⟩

end Sys2Proof.Machine
end

section
/-! SUPPORT. What an instruction changes and what it leaves unchanged (spec/10_state.md, spec/20_memory.md): the frame
obligations, each read off the effects of exec. -/

namespace Sys2Proof.Machine

/-- Where no fault has ended the run, an instruction has had its effect. -/
theorem effect_of_safe {i : Instr} {s t : State} (h : exec i s = .next t) (ht : t.Safe = true) : Effect i s t := by
  rcases exec_cases h with he | ⟨c, -, rfl⟩
  · exact he
  · cases ht

/-- A taken fall-through adds 3, and does not wrap around unless the policy is `wrap` (R87, R88). -/
theorem eq_add_three_of_fallsTo {s : State} {n : Byte} (h : FallsTo s n) :
    n = s.pc + 3 ∧ (s.params.pcEdge = .fault → n.toNat = s.pc.toNat + 3) := by
  have h3 : (s.pc + 3).toNat = (s.pc.toNat + 3) % 256 := BitVec.toNat_add s.pc 3
  have hn := n.isLt
  rcases h with h | ⟨hw, h⟩
  · exact ⟨BitVec.eq_of_toNat_eq (by omega), fun _ => h⟩
  · exact ⟨BitVec.eq_of_toNat_eq (by omega), fun hf => by rw [hf] at hw; cases hw⟩

/-! ## The frames -/

/-- Settles O25: only a store writes memory, and it writes the one cell. -/
theorem memoryChangesOnlyAtTheStoredCell : Obligations.MemoryChangesOnlyAtTheStoredCell := by
  intro i s t h ht k hk
  cases effect_of_safe h ht with
  | store b a v n target bank next result =>
    rw [result]
    exact read_write_other _ _ k v (hk b a target)
  | write _ _ _ _ _ _ _ result | jump _ _ _ _ _ result | fall _ _ _ result | halt _ result => rw [result]; rfl

/-- Settles O48: only a jump sets `active`, to a bank that a selector names. -/
theorem onlyJumpsChangeTheActiveBank : Obligations.OnlyJumpsChangeTheActiveBank := by
  intro i s t h ht
  cases effect_of_safe h ht with
  | store _ _ _ _ _ _ _ result | write _ _ _ _ _ _ _ result | fall _ _ _ result | halt _ result =>
    rw [result]
    exact ⟨fun _ => rfl, fun _ => .inl rfl⟩
  | jump d b a kind bank result =>
    rw [result, kind]
    refine ⟨(nomatch ·), fun _ => ?_⟩
    rcases bank with ⟨-, rfl⟩ | ⟨-, hm, hb⟩
    · exact .inl rfl
    · have hb7 : b.toNat < 8 := by have := selectorMax_le s.params.selectorMax; omega
      exact .inr hb7

/-- Settles O49: only a register write changes a register, and it writes the destination. -/
theorem onlyTheDestinationRegisterChanges : Obligations.OnlyTheDestinationRegisterChanges := by
  intro i s t h ht j hj
  cases effect_of_safe h ht with
  | write r v n k dst reg next result =>
    rw [result]
    exact readX_writeX_other s k j v fun hk => hj r dst (hk ▸ reg)
  | store _ _ _ _ _ _ _ result | jump _ _ _ _ _ result | fall _ _ _ result | halt _ result => rw [result]; rfl

/-- Settles O51: neither an effect nor a fault writes the parameters, and only a fault counts up the free values. -/
theorem noInstructionChangesTheParameters : Obligations.NoInstructionChangesTheParameters := by
  intro i s t h
  rcases exec_cases h with he | ⟨c, -, rfl⟩
  · cases he with
    | store _ _ _ _ _ _ _ result | write _ _ _ _ _ _ _ result | jump _ _ _ _ _ result | fall _ _ _ result
      | halt _ result => rw [result]; exact ⟨rfl, fun _ => rfl⟩
  · exact ⟨rfl, fun ht => nomatch ht⟩

/-- Settles O52: END and the unassigned opcodes halt, no other effect writes the status, and a fault is not a halt. -/
theorem haltedExactlyByEndOrUnassigned : Obligations.HaltedExactlyByEndOrUnassigned := by
  intro i s t hs h
  by_cases hf : faultsOf i s = []
  · have hst := status_of_no_faults hf h
    cases hi : i.isHalt with
    | true =>
      rw [hi, if_pos rfl] at hst
      exact ⟨⟨fun _ => rfl, fun _ => hst⟩, fun h => nomatch h⟩
    | false =>
      rw [hi, if_neg Bool.false_ne_true, hs] at hst
      exact ⟨by simp [hst], fun _ => .inl hst⟩
  · obtain ⟨u, f, hu, hst⟩ := exec_faults hf
    obtain rfl : u = t := Host.Outcome.next.inj (hu.symm.trans h)
    have hi : i.isHalt = false := Bool.eq_false_iff.mpr fun hi => shape_ne_halt_of_faults hf ((isHalt_iff i).mp hi)
    exact ⟨by simp [hst, hi], fun _ => .inr (by rw [hst]; rfl)⟩

/-- Settles O53: an instruction that is no jump and no halt stores or writes a register, and falls through. -/
theorem straightLineCodeAdvancesByThree : Obligations.StraightLineCodeAdvancesByThree := by
  intro i s t hj hh h ht
  cases effect_of_safe h ht with
  | store b a v n target bank next result | write r v n j dst reg next result =>
    rw [result]
    exact ⟨rfl, eq_add_three_of_fallsTo next⟩
  | jump _ _ _ kind _ _ | fall _ kind _ _ => rw [hj] at kind; cases kind
  | halt kind _ => rw [hh] at kind; cases kind

/-! ## Memory and the instructions that do not touch it (R43, R44) -/

/-- `s` with another memory. -/
def withBanks (m : Memory) (s : State) : State := { s with banks := m }

/-- A fetch reads the three bytes of the active bank, and nothing else of memory (R43). -/
theorem fetched_withBanks {s : State} {m : Memory}
    (h : ∀ a : Byte, m.read (cellAddr s.active a) = s.banks.read (cellAddr s.active a)) :
    fetched (withBanks m s) = fetched s := by
  have hb (k : Byte) : fetchByte (withBanks m s) k = fetchByte s k := h (s.pc + k)
  simp only [fetched, hb]
  rfl

theorem touchesMemory_of_storeTarget {i : Instr} {s : State} {c : Checked (Byte × Byte)} (h : storeTarget i s = some c) :
    i.touchesMemory = true := by
  revert h
  cases i <;> simp [storeTarget, Instr.touchesMemory]

/-- An instruction that is no SAVE and no LOAD does the same whatever the memory holds, and leaves it as it is. -/
theorem exec_withBanks {i : Instr} {s t : State} (m : Memory) (hm : i.touchesMemory = false) (h : exec i s = .next t)
    (ht : t.Safe = true) : t.banks = s.banks ∧ exec i (withBanks m s) = .next (withBanks m t) := by
  have hb : t.banks = s.banks := by
    cases effect_of_safe h ht with
    | store b a v n target bank next result => rw [touchesMemory_of_storeTarget target] at hm; cases hm
    | write _ _ _ _ _ _ _ result | jump _ _ _ _ _ result | fall _ _ _ result | halt _ result => rw [result]; rfl
  refine ⟨hb, ?_⟩
  rw [exec_eq_run] at h ⊢
  rw [touchesMemory_eq] at hm
  cases hi : shape i <;> rw [hi] at h hm
  case save | load => cases hm
  case halt =>
    cases h
    rfl
  case branch taken sel cond target =>
    refine commit_transfer (withBanks m) h ht ?_
    rintro ⟨b, v, a, f⟩ u hu
    cases f <;> cases hu <;> rfl
  all_goals
    refine commit_transfer (withBanks m) h ht ?_
    rintro v u ⟨⟩
    rfl

/-- Settles O54: the fetch, the instructions that do not touch memory, and the three forms with a held selector. -/
theorem otherInstructionsDoNotTouchMemory : Obligations.OtherInstructionsDoNotTouchMemory := by
  refine ⟨fun s m h => fetched_withBanks h, fun i s t m hm h _ ht => exec_withBanks m hm h ht,
    fun s sel a v d b n r hd hsel hb hn => ⟨?_, fun j hj => ?_, ?_⟩⟩
  · exact saveWith_ok (heldSel_ok hd hsel) rfl rfl hn hb
  · exact loadWith_ok (heldSel_ok hd hsel) rfl (dest_of_eq hj) hn hb
  · exact jumpWith_ok (literalByte_ok hsel) rfl

/-- Settles O56: the LOAD reads the cell that the SAVE has written. -/
theorem loadReturnsTheMostRecentSave : Obligations.LoadReturnsTheMostRecentSave := by
  intro i j s t u b a v r htgt hval hi ht hsrc hdst hj hu
  rcases exec_save_next htgt hval hi with ⟨n, rfl⟩ | ⟨c, -, rfl⟩
  · rcases exec_load_next hsrc hdst hj with ⟨k, n', hk, rfl⟩ | ⟨c, -, rfl⟩
    · have hread : memRead (setPc (memWrite s b a v) n) b a = v := memRead_memWrite_same s b a v
      simp [Holds, hk, hread]
    · cases hu
  · cases ht

/-! ## The invariant -/

/-- A fault of an instruction that was fetched has a genuine record. -/
theorem genuine_of_fits {i : Instr} {s : State} {c : Cause} {op0 : Byte} (hf : fits i s c) (he : fetchEdge s = false) :
    FaultRecord.genuine s.params { cause := c, pc := s.pc, active := s.active, op0 := some op0 } = true := by
  cases c with
  | registerOutOfRange r => simpa [FaultRecord.genuine] using hf.2
  | bankOutOfRange d => simpa [FaultRecord.genuine] using hf.2
  | arithmeticOverflow op a b =>
    cases op with
    | add => simpa [FaultRecord.genuine] using hf.2
    | sub => simpa [FaultRecord.genuine] using hf.2
    | or | xor | nor | and => exact hf.elim
  | malformedCount | malformedBank => exact hf.elim
  | pcOutOfBank q =>
    obtain ⟨rfl, ⟨hedge, hpc⟩, -⟩ := hf
    have : s.pc.toNat ≤ 253 := by simpa [fetchEdge, hedge] using he
    simp only [FaultRecord.genuine, hedge]
    simp
    omega

theorem inv_iff (s : State) : s.Inv = true ↔ s.banks.wf = true ∧ s.params.wf = true ∧ s.statusWf = true := by
  simp [State.Inv, and_assoc]

/-- While no fault has ended the run the status part of the invariant is that the active bank exists. -/
theorem statusWf_of_safe {s : State} (h : s.Safe = true) : s.statusWf = decide (s.active.toNat < 8) := by
  unfold State.statusWf
  cases hs : s.status with
  | running | halted => rfl
  | faulted f => simp [State.Safe, hs, Status.isFaulted] at h

/-- A fault with a genuine record, taken where the active bank exists, meets the invariant: the rest is free but
canonical. -/
theorem inv_takeFault {s : State} {op0 : Option Byte} {c : Cause} (hp : s.params.wf = true) (ha : s.active.toNat < 8)
    (hg : FaultRecord.genuine s.params { cause := c, pc := s.pc, active := s.active, op0 := op0 } = true) :
    (takeFault s op0 c).Inv = true := by
  rw [inv_iff]
  refine ⟨takeFault_banks_wf s op0 c, hp, ?_⟩
  simp [State.statusWf, hg, ha]

/-- An effect keeps the invariant. -/
theorem Effect.inv {i : Instr} {s t : State} (h : Effect i s t) (hs : s.status = .running) (hi : s.Inv = true) :
    t.Inv = true := by
  obtain ⟨hb, hp, hst⟩ := (inv_iff s).mp hi
  have ha : s.active.toNat < 8 := by simpa [statusWf_of_safe (safe_of_running hs)] using hst
  rw [inv_iff, statusWf_of_safe (h.safe (safe_of_running hs)), decide_eq_true_iff]
  cases h with
  | store b a v n target bank next result =>
    rw [result]
    exact ⟨memWrite_wf s b a v hb bank, hp, ha⟩
  | jump d b a kind bank result =>
    rw [result]
    exact ⟨hb, hp, selectsBank_lt ha bank⟩
  | write _ _ _ _ _ _ _ result | fall _ _ _ result | halt _ result =>
    rw [result]
    exact ⟨hb, hp, ha⟩

/-- Settles O13: a step is an effect, the fetch fault, or a fault of the fetched instruction. -/
theorem stepKeepsTheInvariant : Obligations.StepKeepsTheInvariant := by
  intro s t hi h
  obtain ⟨hs, hstep⟩ := step_cases h
  obtain ⟨hb, hp, hst⟩ := (inv_iff s).mp hi
  have ha : s.active.toNat < 8 := by simpa [statusWf_of_safe (safe_of_running hs)] using hst
  rcases hstep with ⟨he, rfl⟩ | ⟨he, -, heff | ⟨c, hc, rfl⟩⟩
  · simp only [fetchEdge, Bool.and_eq_true, decide_eq_true_eq] at he
    exact inv_takeFault hp ha (by simp [FaultRecord.genuine, he])
  · exact heff.inv hs hi
  · exact inv_takeFault hp ha (genuine_of_fits hc he)

end Sys2Proof.Machine
end

section
/-! SUPPORT. The bank selector (spec/20_memory.md R45 to R47), the engine cycle and the run loop
(spec/40_engine_cycle.md R82 to R93), and the obligations about them. -/

namespace Sys2Proof.Machine

/-! ## The bank selector -/

/-- Settles O19: the three ranges of a selector, in a state with the parameters and the active bank in question. -/
theorem resolveFollowsTheSelectorRule : Obligations.ResolveFollowsTheSelectorRule := by
  intro p d active
  have ok (b : Byte) := (resolve_ok_iff { State.reset with params := p, active := active } d b).mpr
  exact ⟨fun h => ok active (.inl ⟨h, rfl⟩), fun b hd hm => ok b (.inr ⟨by omega, hm, hd.symm⟩),
    resolve_bad { State.reset with params := p, active := active } d⟩

/-- Settles O20: a packed literal is below 8, so it names the active bank or one of the banks 0 to 6. -/
theorem packedLiteralsReachBanksZeroToSix : Obligations.PackedLiteralsReachBanksZeroToSix := by
  intro s d
  obtain ⟨b, hb⟩ := exists_selectsBank (resolve_packed s d)
  have hd : d.toNat < 8 := d.isLt
  have hw : (d.setWidth 8).toNat = d.toNat := by rw [BitVec.toNat_setWidth]; omega
  refine ⟨b, literalSel_ok hb, ?_⟩
  rcases hb with ⟨h0, hb⟩ | ⟨h1, -, hb⟩
  · have hz : d.toNat = 0 := by rw [← hw, h0]; rfl
    exact .inl ⟨BitVec.eq_of_toNat_eq hz, hb⟩
  · rw [hw] at h1 hb
    exact .inr ⟨by rintro rfl; simp at h1, hb, by omega⟩

/-! ## One step -/

/-- A running state with an existing active bank, away from the fetch edge, runs the fetched instruction (R84). -/
theorem step_eq_exec {s : State} (hs : s.status = .running) (ha : s.active.toNat < 8) (he : fetchEdge s = false) :
    step s = exec (fetched s) s := by
  simp [step, hs, he, bankExists, ha]

/-- At the fetch edge the step is the fault of the fetch, before any decode (R83, R91). -/
theorem step_of_fetchEdge {s : State} (hs : s.status = .running) (he : fetchEdge s = true) :
    step s = .next (takeFault s none (.pcOutOfBank s.pc)) := by
  simp [step, hs, he]

theorem fetchEdge_eq_false {s : State} (h : s.pc.toNat ≤ 253 ∨ s.params.pcEdge = .wrap) : fetchEdge s = false := by
  rcases h with h | h
  · simp [fetchEdge, Nat.not_lt.mpr h]
  · simp [fetchEdge, h]

/-- Byte `k` of the word at `pc` lies `k` cells on, modulo 256, in the active bank (R83). -/
theorem fetchByte_eq (s : State) (k : Byte) :
    fetchByte s k = s.banks.read (256 * s.active.toNat + (s.pc.toNat + k.toNat) % 256) := by
  rw [fetchByte, memRead, cellAddr, BitVec.toNat_add]

/-- Settles O7: the three bytes of the word, and the step away from the fetch edge. -/
theorem stepRunsTheFetchedInstruction : Obligations.StepRunsTheFetchedInstruction := by
  intro s op0 op1 op2 hs ha hpc h0 h1 h2
  have h0' : fetchByte s 0 = op0 := by
    have : (s.pc.toNat + (0 : Byte).toNat) % 256 = s.pc.toNat := Nat.mod_eq_of_lt s.pc.isLt
    rw [fetchByte_eq, this, h0]
  rw [step_eq_exec hs ha (fetchEdge_eq_false hpc), fetched, h0', (fetchByte_eq s 1).trans h1,
    (fetchByte_eq s 2).trans h2]

/-- Settles O8: pc above 253 under `fault` is the fetch edge. -/
theorem fetchPastTheBankFaults : Obligations.FetchPastTheBankFaults := by
  intro s hs hedge hpc
  exact ⟨_, step_of_fetchEdge hs (by simp [fetchEdge, hedge, hpc]), rfl⟩

/-- Settles O9: a running state takes the fetch fault or executes; outside Running the stop names the status. -/
theorem stepsExistExactlyWhileRunning : Obligations.StepsExistExactlyWhileRunning := by
  intro s hi
  refine ⟨⟨fun ⟨t, ht⟩ => (step_cases ht).1, fun hs => ?_⟩, fun hs => by simp [step, hs], fun f hs => by simp [step, hs]⟩
  obtain ⟨-, -, hst⟩ := (inv_iff s).mp hi
  have ha : s.active.toNat < 8 := by simpa [statusWf_of_safe (safe_of_running hs)] using hst
  cases he : fetchEdge s with
  | true => exact ⟨_, step_of_fetchEdge hs he⟩
  | false => rw [step_eq_exec hs ha he]; exact execNeverStops (fetched s) s ha

/-- Settles O57: the state a step answers is one like any other, and outside Running nothing follows (O59). -/
theorem stopStateIsFinal : Obligations.StopStateIsFinal :=
  fun _ t _ ht => noStepOutsideRunning t ht

/-! ## A store and the next fetch (R60, R61) -/

/-- A cell of bank `b` after a store to cell `a` of that bank. -/
theorem memRead_memWrite (s : State) (b a v c : Byte) :
    memRead (memWrite s b a v) b c = if c = a then v else memRead s b c := by
  split
  · rename_i h; rw [h, memRead_memWrite_same]
  · rename_i h; exact memRead_memWrite_other s b a v b c fun e => h (Prod.mk.inj e).2

/-- Settles O55: the store goes through, and the next fetch reads the memory as it is then. -/
theorem storeIsSeenByTheNextFetch : Obligations.StoreIsSeenByTheNextFetch := by
  intro s a v hs ha hpc htgt hval t after
  have h3 : (s.pc + 3).toNat = s.pc.toNat + 3 := by
    have : (s.pc + 3).toNat = (s.pc.toNat + 3) % 256 := BitVec.toNat_add s.pc 3
    omega
  have hread (c : Byte) : memRead t s.active c = after c := memRead_memWrite s s.active a v c
  refine ⟨?_, hread, ?_⟩
  · rw [step_eq_exec hs ha (fetchEdge_eq_false (.inl (by omega)))]
    exact exec_save_ok htgt hval (.inl h3) ha
  · have hbyte (k c : Byte) (hc : s.pc + 3 + k = c) : fetchByte t k = after c := hc ▸ hread (s.pc + 3 + k)
    have he : fetchEdge t = false := fetchEdge_eq_false (.inl (show (s.pc + 3).toNat ≤ 253 by omega))
    rw [step_eq_exec (s := t) hs ha he, fetched, hbyte 0 (s.pc + 3) (BitVec.add_zero _),
      hbyte 1 (s.pc + 4) (BitVec.add_assoc s.pc 3 1), hbyte 2 (s.pc + 5) (BitVec.add_assoc s.pc 3 2)]

/-! ## The run loop -/

/-- Settles O6: the result is read off the status. -/
theorem runResultTellsTheStatus : Obligations.RunResultTellsTheStatus := by
  intro s f
  unfold resultOf
  cases s.status <;> simp

/-- One round of the run loop in a running state (R92). -/
theorem runLoop_succ_of_step {s u : State} (hs : s.status = .running) (h : step s = .next u) (k : Nat) :
    runLoop (k + 1) s = runLoop k u := by
  rw [runLoop, hs, h]

/-- A run loop that answers a state has made a first step from a running state, and goes on from there. -/
theorem exists_step_of_runLoop {s t : State} {k : Nat} (hs : s.status = .running) (h : runLoop (k + 1) s = .next t) :
    ∃ u, step s = .next u ∧ runLoop k u = .next t := by
  rw [runLoop, hs] at h
  cases hu : step s with
  | next u => rw [hu] at h; exact ⟨u, rfl, h⟩
  | fault r => rw [hu] at h; cases h
  | refused r => rw [hu] at h; cases h

/-- Settles O4: by induction on the fuel used, the loop stops where it stopped before. -/
theorem finishedRunIgnoresMoreFuel : Obligations.FinishedRunIgnoresMoreFuel := by
  intro k j
  induction k with
  | zero =>
    rintro s t ⟨⟩ ht
    exact runLoop_of_not_running ht _
  | succ k ih =>
    intro s t h ht
    by_cases hs : s.status = .running
    · obtain ⟨u, hu, hrun⟩ := exists_step_of_runLoop hs h
      rw [Nat.succ_add, runLoop_succ_of_step hs hu]
      exact ih u t hrun ht
    · rw [runLoop_of_not_running hs] at h ⊢
      exact h

/-- One more step of a machine, as the host counts them. -/
theorem run_succ_of_step (M : Host.Core) {s u : M.State} (hu : M.step s = .next u) (k : Nat) :
    M.run (k + 1) s = M.run k u := by
  rw [Host.Core.run, hu]

/-- A run of a machine that answers a state has made a first step. -/
theorem exists_step_of_run (M : Host.Core) {s t : M.State} {k : Nat} (h : M.run (k + 1) s = .next t) :
    ∃ u, M.step s = .next u ∧ M.run k u = .next t := by
  rw [Host.Core.run] at h
  cases hu : M.step s with
  | next u => rw [hu] at h; exact ⟨u, rfl, h⟩
  | fault r => rw [hu] at h; cases h
  | refused r => rw [hu] at h; cases h

/-- Settles O5: by induction on the number of steps, each round of the loop is one step of the engine. -/
theorem runLoopAgreesWithSteps : Obligations.RunLoopAgreesWithSteps := by
  intro k
  induction k with
  | zero => exact fun s t => ⟨id, fun h _ => h⟩
  | succ k ih =>
    refine fun s t => ⟨fun h => ?_, fun h ht => ?_⟩
    · obtain ⟨u, hu, hrun⟩ := exists_step_of_run core h
      rw [runLoop_succ_of_step (step_cases hu).1 hu]
      exact (ih u t).1 hrun
    · by_cases hs : s.status = .running
      · obtain ⟨u, hu, hrun⟩ := exists_step_of_runLoop hs h
        exact (run_succ_of_step core hu k).trans ((ih u t).2 hrun ht)
      · rw [runLoop_of_not_running hs] at h
        cases h
        exact absurd ht hs

end Sys2Proof.Machine
end

section
/-! SUPPORT. Reset from a core input (spec/70_reset_and_hazards.md R174), and the obligations about it. -/

namespace Sys2Proof.Machine

/-! ## The check of the core input -/

theorem firstBadBank_eq_none {image : List (List Byte)} (h : ∀ b ∈ image, b.length = 256) (k : Nat) :
    firstBadBank k image = none := by
  induction image generalizing k with
  | nil => rfl
  | cons b rest ih =>
    rw [firstBadBank, if_pos (h b List.mem_cons_self)]
    exact ih (fun c hc => h c (List.mem_cons_of_mem b hc)) (k + 1)

/-- The first image that is not 256 bytes long is the one found, counted from `k`. -/
theorem firstBadBank_eq_some {image : List (List Byte)} {i : Nat} {bank : List Byte} (hi : image[i]? = some bank)
    (hbad : bank.length ≠ 256) (hgood : ∀ (j : Nat) (b : List Byte), j < i → image[j]? = some b → b.length = 256)
    (k : Nat) : firstBadBank k image = some (k + i, bank.length) := by
  induction image generalizing i k with
  | nil => simp at hi
  | cons b rest ih =>
    cases i with
    | zero =>
      obtain rfl : b = bank := by simpa using hi
      rw [firstBadBank, if_neg hbad, Nat.add_zero]
    | succ i =>
      rw [firstBadBank, if_pos (hgood 0 b (Nat.succ_pos i) rfl),
        ih (by simpa using hi) (fun j c hj hc => hgood (j + 1) c (Nat.succ_lt_succ hj) (by simpa using hc)) (k + 1),
        Nat.succ_add_eq_add_succ]

/-- What is found is an image of the input, and its length is not 256. -/
theorem firstBadBank_bounds {image : List (List Byte)} {k i n : Nat} (h : firstBadBank k image = some (i, n)) :
    i < k + image.length ∧ n ≠ 256 := by
  induction image generalizing k with
  | nil => cases h
  | cons b rest ih =>
    rw [firstBadBank] at h
    rw [List.length_cons]
    split at h
    · have := ih h
      exact ⟨by omega, this.2⟩
    · cases h
      exact ⟨by omega, ‹_›⟩

theorem malformed_eq_none {image : List (List Byte)} (hlen : image.length ≤ 8) (h : ∀ b ∈ image, b.length = 256) :
    malformed image = none := by
  rw [malformed, if_neg (Nat.not_lt.mpr hlen), firstBadBank_eq_none h, Option.map_none]

/-! ## The state after reset -/

/-- A malformed input is a fault of the zeroed machine (R174). -/
theorem resetWith_of_malformed {image : List (List Byte)} {c : Cause} (p : Params) (n : Nat)
    (h : malformed image = some c) :
    State.resetWith p n image = takeFault { State.reset with params := p, freeIndex := n } none c := by
  simp only [State.resetWith, h]

/-- A good input is copied into the banks of the zeroed machine (R174). -/
theorem resetWith_of_good {image : List (List Byte)} (p : Params) (n : Nat) (h : malformed image = none) :
    State.resetWith p n image
      = { State.reset with params := p, freeIndex := n, banks := Memory.ofCells (imageByte image) } := by
  simp only [State.resetWith, h]

/-- The byte that an image gives to cell `(b, a)`. -/
theorem imageByte_cellAddr (image : List (List Byte)) (b a : Byte) :
    imageByte image (cellAddr b a) = ((image[b.toNat]?.getD [])[a.toNat]?).getD 0 := by
  have ha := a.isLt
  have hdiv : cellAddr b a / 256 = b.toNat := by simp only [cellAddr]; omega
  have hmod : cellAddr b a % 256 = a.toNat := by simp only [cellAddr]; omega
  rw [imageByte, hdiv, hmod]

/-- Settles O2: a cell of the banks reads as its image says, and 0 where there is no image. -/
theorem resetLoadsTheImages : Obligations.ResetLoadsTheImages := by
  intro p n image hlen h s
  have hs : s = _ := resetWith_of_good p n (malformed_eq_none hlen h)
  have hread {b : Byte} (a : Byte) (hb : b.toNat < 8) :
      memRead s b a = ((image[b.toNat]?.getD [])[a.toNat]?).getD 0 := by
    rw [hs, ← imageByte_cellAddr]
    exact read_ofCells _ _ (cellAddr_lt b a (decide_eq_true hb))
  refine ⟨fun b a bank hbank => ?_, fun b a hb hb8 => ?_, fun i => ?_, by rw [hs]; rfl, by rw [hs]; rfl, by rw [hs]; rfl⟩
  · obtain ⟨hb, -⟩ := List.getElem?_eq_some_iff.mp hbank
    have ha : a.toNat < bank.length := h bank (List.mem_of_getElem? hbank) ▸ a.isLt
    rw [hread a (by omega), hbank, Option.getD_some, List.getElem?_eq_getElem ha, Option.getD_some]
  · rw [hread a hb8, List.getElem?_eq_none hb]
    rfl
  · rw [hs]
    exact readX_reset i

/-- Settles O3: the count is checked before the lengths. -/
theorem malformedImageFaultsAtReset : Obligations.MalformedImageFaultsAtReset := by
  intro p n image
  refine ⟨fun hlen => ?_, fun i bank hlen hi hbad hgood => ?_⟩
  · rw [resetWith_of_malformed p n (if_pos hlen)]
    rfl
  · have hm : malformed image = some (.malformedBank i bank.length) := by
      rw [malformed, if_neg (Nat.not_lt.mpr hlen), firstBadBank_eq_some hi hbad hgood 0, Option.map_some, Nat.zero_add]
    rw [resetWith_of_malformed p n hm]
    rfl

/-! ## The invariant after reset -/

/-- What the check of a core input answers makes a genuine record at pc 0 of bank 0, with no op0 (R160). -/
theorem genuine_of_malformed {image : List (List Byte)} {c : Cause} (p : Params) (h : malformed image = some c) :
    FaultRecord.genuine p { cause := c, pc := 0, active := 0, op0 := none } = true := by
  rw [malformed] at h
  split at h
  · cases h
    simpa [FaultRecord.genuine] using ‹_ < image.length›
  · obtain ⟨⟨i, n⟩, hbad, rfl⟩ := Option.map_eq_some_iff.mp h
    obtain ⟨hi, hn⟩ := firstBadBank_bounds hbad
    have hi8 : i < 8 := by omega
    simp [FaultRecord.genuine, hi8, hn]

/-- Settles O12: a malformed input is a fault with a genuine record, and a good one a running machine in bank 0. -/
theorem loadedResetMeetsTheInvariant : Obligations.LoadedResetMeetsTheInvariant := by
  intro p n image hp
  cases h : malformed image with
  | some c =>
    rw [resetWith_of_malformed p n h]
    exact inv_takeFault hp (show (0 : Byte).toNat < 8 by decide) (genuine_of_malformed p h)
  | none =>
    rw [resetWith_of_good p n h, inv_iff]
    exact ⟨ofCells_wf _, hp, rfl⟩

/-- Settles O11: the empty memory, the default map and the active bank 0. -/
theorem resetMeetsTheInvariant : Obligations.ResetMeetsTheInvariant := by
  unfold Obligations.ResetMeetsTheInvariant
  decide

end Sys2Proof.Machine
end
